-- ==== Sys2Proof/Word.lean ====
section
/-! DEFINITION. The units of the block: the 32-bit word of the command port and of the register read
port (20_memory.md R44), the 8-bit fields of a header and of the fault record, and the payload, a
sequence of bits and not of bytes (20_memory.md R42). -/

namespace Sys2Proof

/-- A command word or a register word: 32 bits, bit 31 the most significant (20_memory.md R44). -/
abbrev Word := BitVec 32

/-- An 8-bit field: an opcode, a cause code or an operand index (30_encoding.md R61, 10_state.md R28). -/
abbrev Octet := BitVec 8

/-- A payload: a finite list of bits, payload position 0 first (00_scope.md R7, R8). -/
abbrev Payload := List Bool

end Sys2Proof
end

