-- ==== Sys2Proof/Config.lean ====
section
/-! DEFINITION. The parameters of the step, which are not state (00_scope.md R6, 10_state.md R23), and
the platform's open parameters, which no rule reads (92_eei_decisions.md D25, D29). -/

namespace Sys2Proof.Config

/-- `M`, MAX_DCI_PAYLOAD_SIZE: the capacity of ACC and OUT in bits (R6). DESIGN CHOICE (unsafe): fixed at
the spec's value. Log entry 2. -/
def maxPayload : Nat := 128

/-- `WORD`: the width of a command word and of every operand (R6). -/
def wordBits : Nat := 32

/-- `APPEND_MAX_WIDTH`: the largest WIDTH operand of ACC.APPEND (R6). -/
def appendMaxWidth : Nat := 32

/-- `MAX_N_RB`: the largest N_RB operand a packer accepts (R6), the spec's default value, which
93_implementation_defined.md G1 marks as general knowledge. DESIGN CHOICE (unsafe): fixed at that value.
Log entry 2. -/
def maxNRb : Nat := 275

/-- `N_OUT_WORDS`: the number of 32-bit words that show ACC or OUT (R6). -/
def outWords : Nat := maxPayload / wordBits

/-- The length of the longest command in words: a header and 14 operands (30_encoding.md R60). -/
def maxCommandWords : Nat := 15

/-- `PLATFORM_BASE`: where the block sits in a host's map (20_memory.md R41). Open, read by no rule.
DESIGN CHOICE (safe): no value is given to it; its type takes a place in a map to be a natural number. Log
entry 7. -/
opaque platformBase : Nat

/-- An order in which a byte-wide bus could carry the bytes of a word (20_memory.md R44): the k-th byte
carried is byte `o k` of the word, byte 0 the least significant.
DESIGN CHOICE (safe): an order carries each of a word's four bytes once; every such order is one, a mixed
one too. Log entry 7. -/
abbrev ByteOrder := Equiv.Perm (Fin 4)

/-- `PLATFORM_BYTE_ORDER`: the byte order of a host's bus (20_memory.md R44). Open, read by no rule.
DESIGN CHOICE (safe): no value is given to it. Log entry 7. -/
opaque platformByteOrder : ByteOrder

/-- `FAULT_SIGNAL_WIRED`: whether FAULT drives a line of the platform (60_exceptions.md R187). Open,
read by no rule. DESIGN CHOICE (safe): no value is given to it. Log entry 7. -/
opaque faultSignalWired : Bool

end Sys2Proof.Config
end

