-- ==== Sys2Proof/Syntax.lean ====
section
/-! DEFINITION. The commands of DCIS-1 (30_encoding.md R63) with their operands (R65). An operand is a
natural number (00_scope.md R10); that it fits one 32-bit word is WellFormed's check. The operands of a
packing command are the fields of a descriptor, named and ordered as R65 lists them. -/

namespace Sys2Proof

/-- The operands of PACK.D00C, `op[1]` to `op[14]` (R65). -/
structure D00C where
  nRb : Nat
  hopCount : Nat
  hopFlag : Nat
  hopOffset : Nat
  freq : Nat
  time : Nat
  mcs : Nat
  ndi : Nat
  rv : Nat
  harq : Nat
  tpc : Nat
  sulPresent : Nat
  sul : Nat
  psize : Nat
  deriving DecidableEq, Repr

/-- The operands of PACK.D00TC, `op[1]` to `op[9]` (R65). -/
structure D00TC where
  nRb : Nat
  hopFlag : Nat
  hopOffset : Nat
  freq : Nat
  time : Nat
  mcs : Nat
  rv : Nat
  tpc : Nat
  psize : Nat
  deriving DecidableEq, Repr

/-- The operands of PACK.D10C, `op[1]` to `op[13]` (R65). -/
structure D10C where
  nRb : Nat
  freq : Nat
  time : Nat
  vrb : Nat
  mcs : Nat
  ndi : Nat
  rv : Nat
  harq : Nat
  dai : Nat
  tpc : Nat
  pri : Nat
  k1 : Nat
  psize : Nat
  deriving DecidableEq, Repr

/-- The operands of PACK.D10P, `op[1]` to `op[9]` (R65). -/
structure D10P where
  nRb : Nat
  smi : Nat
  sm : Nat
  freq : Nat
  time : Nat
  vrb : Nat
  mcs : Nat
  tbs : Nat
  psize : Nat
  deriving DecidableEq, Repr

/-- The operands of PACK.D10SI, `op[1]` to `op[8]` (R65). -/
structure D10SI where
  nRb : Nat
  freq : Nat
  time : Nat
  vrb : Nat
  mcs : Nat
  rv : Nat
  sii : Nat
  psize : Nat
  deriving DecidableEq, Repr

/-- The operands of PACK.D10RA, `op[1]` to `op[7]` (R65). -/
structure D10RA where
  nRb : Nat
  freq : Nat
  time : Nat
  vrb : Nat
  mcs : Nat
  tbs : Nat
  psize : Nat
  deriving DecidableEq, Repr

/-- The operands of PACK.D10TC, `op[1]` to `op[12]` (R65). -/
structure D10TC where
  nRb : Nat
  freq : Nat
  time : Nat
  vrb : Nat
  mcs : Nat
  ndi : Nat
  rv : Nat
  harq : Nat
  tpc : Nat
  pri : Nat
  k1 : Nat
  psize : Nat
  deriving DecidableEq, Repr

/-- The operands of PACK.RAR, `op[1]` to `op[6]` (R65). -/
structure RarGrant where
  hopFlag : Nat
  freq : Nat
  time : Nat
  mcs : Nat
  tpc : Nat
  csi : Nat
  deriving DecidableEq, Repr

/-- The twelve commands of the opcode map (R63). -/
inductive Instr where
  /-- ACC.CLEAR (40_accumulator.md R80). -/
  | accClear
  /-- ACC.APPEND VALUE, WIDTH (R81). -/
  | accAppend (value width : Nat)
  /-- ACC.ZEROS N (R82). -/
  | accZeros (n : Nat)
  /-- ACC.FINALIZE (R83). -/
  | accFinalize
  /-- PACK.D00C (42_dci_0_0.md R122). -/
  | packD00C (d : D00C)
  /-- PACK.D00TC (42_dci_0_0.md R125). -/
  | packD00TC (d : D00TC)
  /-- PACK.D10C (43_dci_1_0.md R140). -/
  | packD10C (d : D10C)
  /-- PACK.D10P (43_dci_1_0.md R143). -/
  | packD10P (d : D10P)
  /-- PACK.D10SI (43_dci_1_0.md R145). -/
  | packD10SI (d : D10SI)
  /-- PACK.D10RA (43_dci_1_0.md R147). -/
  | packD10RA (d : D10RA)
  /-- PACK.D10TC (43_dci_1_0.md R149). -/
  | packD10TC (d : D10TC)
  /-- PACK.RAR (44_rar.md R170). -/
  | packRar (d : RarGrant)
  deriving DecidableEq, Repr

end Sys2Proof
end

