-- ==== Sys2Proof/WellFormed.lean ====
section
/-! DEFINITION. Which terms of Instr a command can carry: every operand is one 32-bit unsigned word, a
natural number in 0 .. 2^32 - 1 (00_scope.md R10, 30_encoding.md R64). No narrower range is asked here:
an operand above its field's range is a command like any other, and the block faults it. -/

namespace Sys2Proof

/-- The value fits one operand word (R10). -/
def fitsWord (v : Nat) : Bool := decide (v < 2 ^ Config.wordBits)

/-- Every operand of the command fits one operand word (R64). -/
def Instr.wellFormed : Instr → Bool
  | .accClear => true
  | .accAppend value width => fitsWord value && fitsWord width
  | .accZeros n => fitsWord n
  | .accFinalize => true
  | .packD00C d =>
    [d.nRb, d.hopCount, d.hopFlag, d.hopOffset, d.freq, d.time, d.mcs, d.ndi, d.rv, d.harq, d.tpc,
      d.sulPresent, d.sul, d.psize].all fitsWord
  | .packD00TC d =>
    [d.nRb, d.hopFlag, d.hopOffset, d.freq, d.time, d.mcs, d.rv, d.tpc, d.psize].all fitsWord
  | .packD10C d =>
    [d.nRb, d.freq, d.time, d.vrb, d.mcs, d.ndi, d.rv, d.harq, d.dai, d.tpc, d.pri, d.k1,
      d.psize].all fitsWord
  | .packD10P d =>
    [d.nRb, d.smi, d.sm, d.freq, d.time, d.vrb, d.mcs, d.tbs, d.psize].all fitsWord
  | .packD10SI d =>
    [d.nRb, d.freq, d.time, d.vrb, d.mcs, d.rv, d.sii, d.psize].all fitsWord
  | .packD10RA d =>
    [d.nRb, d.freq, d.time, d.vrb, d.mcs, d.tbs, d.psize].all fitsWord
  | .packD10TC d =>
    [d.nRb, d.freq, d.time, d.vrb, d.mcs, d.ndi, d.rv, d.harq, d.tpc, d.pri, d.k1,
      d.psize].all fitsWord
  | .packRar d =>
    [d.hopFlag, d.freq, d.time, d.mcs, d.tpc, d.csi].all fitsWord

end Sys2Proof
end

