-- ==== Sys2Proof/Decode.lean ====
section
/-! DEFINITION. The command format (30_encoding.md R60 to R67): the decoder, total on any list of words,
which refuses by name, and after it the encoder of a well-formed command (R68). -/

namespace Sys2Proof

/-! ### Header fields -/

/-- Bits 31:8 of a header word, RSVD, which must be 0 (R61). -/
def headerReserved (h : Word) : BitVec 24 := h.extractLsb' 8 24

/-- Bits 7:0 of a header word, OPCODE (R61). -/
def headerOpcode (h : Word) : Octet := h.extractLsb' 0 8

/-! ### The opcode map -/

/-- One row of the opcode map (R63): the OPCODE, the number n of operand words, and the command that
the operand words `op 1` to `op n` make, in the order of R65. -/
structure OpcodeRow where
  opcode : Octet
  count : Nat
  build : (Nat → Nat) → Instr

/-- The opcode map (R63) with the operand lists (R65). -/
def opcodeMap : List OpcodeRow := [
  ⟨0x01, 0, fun _ => .accClear⟩,
  ⟨0x02, 2, fun op => .accAppend (op 1) (op 2)⟩,
  ⟨0x03, 1, fun op => .accZeros (op 1)⟩,
  ⟨0x04, 0, fun _ => .accFinalize⟩,
  ⟨0x10, 14, fun op => .packD00C
    { nRb := op 1, hopCount := op 2, hopFlag := op 3, hopOffset := op 4, freq := op 5, time := op 6,
      mcs := op 7, ndi := op 8, rv := op 9, harq := op 10, tpc := op 11, sulPresent := op 12,
      sul := op 13, psize := op 14 }⟩,
  ⟨0x11, 9, fun op => .packD00TC
    { nRb := op 1, hopFlag := op 2, hopOffset := op 3, freq := op 4, time := op 5, mcs := op 6,
      rv := op 7, tpc := op 8, psize := op 9 }⟩,
  ⟨0x12, 13, fun op => .packD10C
    { nRb := op 1, freq := op 2, time := op 3, vrb := op 4, mcs := op 5, ndi := op 6, rv := op 7,
      harq := op 8, dai := op 9, tpc := op 10, pri := op 11, k1 := op 12, psize := op 13 }⟩,
  ⟨0x13, 9, fun op => .packD10P
    { nRb := op 1, smi := op 2, sm := op 3, freq := op 4, time := op 5, vrb := op 6, mcs := op 7,
      tbs := op 8, psize := op 9 }⟩,
  ⟨0x14, 8, fun op => .packD10SI
    { nRb := op 1, freq := op 2, time := op 3, vrb := op 4, mcs := op 5, rv := op 6, sii := op 7,
      psize := op 8 }⟩,
  ⟨0x15, 7, fun op => .packD10RA
    { nRb := op 1, freq := op 2, time := op 3, vrb := op 4, mcs := op 5, tbs := op 6,
      psize := op 7 }⟩,
  ⟨0x16, 12, fun op => .packD10TC
    { nRb := op 1, freq := op 2, time := op 3, vrb := op 4, mcs := op 5, ndi := op 6, rv := op 7,
      harq := op 8, tpc := op 9, pri := op 10, k1 := op 11, psize := op 12 }⟩,
  ⟨0x17, 6, fun op => .packRar
    { hopFlag := op 1, freq := op 2, time := op 3, mcs := op 4, tpc := op 5, csi := op 6 }⟩]

/-- The row of an OPCODE, none where the OPCODE is illegal (R63, R66). -/
def lookupOpcode (opcode : Octet) : Option OpcodeRow := opcodeMap.find? (fun r => r.opcode == opcode)

/-! ### The decoder -/

/-- Operand word k of a command, 1-based, read as a natural number (R64). The decoder asks for it only
with k at most the number of words.
DESIGN CHOICE (safe): past the end, a case that does not arise, it reads 0. Log entry 12. -/
def operandWord (ws : List Word) (k : Nat) : Nat := ((ws[k - 1]?).getD 0).toNat

/-- What the words at the command port decode to. -/
inductive Decoded where
  /-- A whole command, and the words behind it. -/
  | command (i : Instr) (rest : List Word)
  /-- A header with a reserved bit set: the header's bits 7:0, and the words behind the header (R62). -/
  | reservedHeader (opcode : Octet) (rest : List Word)
  /-- A header whose OPCODE is not in the map, and the words behind the header (R62, R66). -/
  | illegalOpcode (opcode : Octet) (rest : List Word)
  /-- No header yet, or a legal header whose operand words have not all arrived (10_state.md R34). -/
  | incomplete
  deriving DecidableEq, Repr

/-- Decoding (R62): the header's checks come before any operand word is awaited; the length follows
from the OPCODE alone (R60). -/
def decode : List Word → Decoded
  | [] => .incomplete
  | h :: rest =>
    if headerReserved h ≠ 0 then .reservedHeader (headerOpcode h) rest
    else
      match lookupOpcode (headerOpcode h) with
      | none => .illegalOpcode (headerOpcode h) rest
      | some row =>
        if rest.length < row.count then .incomplete
        else .command (row.build (operandWord rest)) (rest.drop row.count)

/-! ### The encoder -/

/-- The OPCODE of a command (R63). -/
def Instr.opcode : Instr → Octet
  | .accClear => 0x01
  | .accAppend _ _ => 0x02
  | .accZeros _ => 0x03
  | .accFinalize => 0x04
  | .packD00C _ => 0x10
  | .packD00TC _ => 0x11
  | .packD10C _ => 0x12
  | .packD10P _ => 0x13
  | .packD10SI _ => 0x14
  | .packD10RA _ => 0x15
  | .packD10TC _ => 0x16
  | .packRar _ => 0x17

/-- The operands of a command in operand order (R65). -/
def Instr.operands : Instr → List Nat
  | .accClear => []
  | .accAppend value width => [value, width]
  | .accZeros n => [n]
  | .accFinalize => []
  | .packD00C d =>
    [d.nRb, d.hopCount, d.hopFlag, d.hopOffset, d.freq, d.time, d.mcs, d.ndi, d.rv, d.harq, d.tpc,
      d.sulPresent, d.sul, d.psize]
  | .packD00TC d =>
    [d.nRb, d.hopFlag, d.hopOffset, d.freq, d.time, d.mcs, d.rv, d.tpc, d.psize]
  | .packD10C d =>
    [d.nRb, d.freq, d.time, d.vrb, d.mcs, d.ndi, d.rv, d.harq, d.dai, d.tpc, d.pri, d.k1, d.psize]
  | .packD10P d =>
    [d.nRb, d.smi, d.sm, d.freq, d.time, d.vrb, d.mcs, d.tbs, d.psize]
  | .packD10SI d =>
    [d.nRb, d.freq, d.time, d.vrb, d.mcs, d.rv, d.sii, d.psize]
  | .packD10RA d =>
    [d.nRb, d.freq, d.time, d.vrb, d.mcs, d.tbs, d.psize]
  | .packD10TC d =>
    [d.nRb, d.freq, d.time, d.vrb, d.mcs, d.ndi, d.rv, d.harq, d.tpc, d.pri, d.k1, d.psize]
  | .packRar d => [d.hopFlag, d.freq, d.time, d.mcs, d.tpc, d.csi]

/-- The words of a command: its header `0x000000XX`, then one word per operand (R63, R68). -/
def encode (i : Instr) : List Word :=
  i.opcode.setWidth 32 :: i.operands.map (BitVec.ofNat 32)

/-! ### One command given as a number -/

/-- The words of a command whose bits are w, bit 0 the least significant bit of the first word: every
bit from nbits up is 0, and there are as many words as the longest command has. -/
def tableWords (nbits w : Nat) : List Word :=
  (List.range Config.maxCommandWords).map fun k => BitVec.ofNat 32 ((w % 2 ^ nbits) >>> (32 * k))

/-- The words of the first command of ws, or its header alone where the header is illegal (R62). -/
def firstCommandWords (ws : List Word) : List Word :=
  match decode ws with
  | .command _ rest => ws.take (ws.length - rest.length)
  | _ => ws.take 1

/-- The command the decoder reads from the bits w, none where it refuses them. -/
def decodeTableWord (nbits w : Nat) : Option Instr :=
  match decode (tableWords nbits w) with
  | .command i _ => some i
  | _ => none

end Sys2Proof
end

