-- ==== Sys2Proof/Machine/Bits.lean ====
section
/-! DEFINITION. The arithmetic of payloads (00_scope.md R8 to R13): the bits of a value, the number of a
payload, the width of the frequency field, and the word view of a payload (10_state.md R29). -/

namespace Sys2Proof.Machine

/-- `bits(v, w)`: the w-bit list of v, most significant bit first (R9). R9 defines it only where `v < 2^w`,
and the checks see to that.
DESIGN CHOICE (safe): a larger v gives its low w bits. Log entry 12. -/
def bits (v : Nat) : Nat → Payload
  | 0 => []
  | w + 1 => v.testBit w :: bits v w

/-- `zeros(n)`: n zero bits (R8). -/
def zeros (n : Nat) : Payload := List.replicate n false

/-- `num(a)`: a payload read as a number, its first bit the most significant (R8). -/
def num (a : Payload) : Nat := a.foldl (fun n b => 2 * n + b.toNat) 0

/-- `a⟨p⟩`: the bit at payload position p, and 0 past the end, as a register shows it (R8, R29). -/
def payloadBit (a : Payload) (p : Nat) : Bool := (a[p]?).getD false

/-- `a⟨p .. p + w - 1⟩`: w bits from payload position p on (R8).
DESIGN CHOICE (safe): positions past the end, of which R8 says nothing, are left out. Log entry 12. -/
def slice (a : Payload) (p w : Nat) : Payload := (a.drop p).take w

/-- The first w' from w on with `x ≤ 2^w'`, looked for in at most fuel steps. -/
def clog2From (x : Nat) : Nat → Nat → Nat
  | 0, w => w
  | fuel + 1, w => if x ≤ 2 ^ w then w else clog2From x fuel (w + 1)

/-- `clog2(x)`: the least w with `2^w ≥ x` (R12). Since `x ≤ 2^x`, the fuel x suffices.
DESIGN CHOICE (safe): `clog2(0)`, which R12 does not define and no rule uses, is 0. Log entry 12. -/
def clog2 (x : Nat) : Nat := clog2From x x 0

/-- `T(N) = N (N + 1) / 2`: the number of resource indication values of N resource blocks (R13). -/
def resourceValues (n : Nat) : Nat := n * (n + 1) / 2

/-- `FW(N) = clog2(T(N))`: the width of the frequency-domain resource assignment field (R13).
DESIGN CHOICE (safe): `FW(0)`, which R13 does not define, is 0; N_RB = 0 has faulted before it is used (R103).
Log entry 12. -/
def freqWidth (n : Nat) : Nat := clog2 (resourceValues n)

/-- Word k of the left-justified view of a payload: bit j shows position `32 k + 31 - j`, or 0 past the
end (R29). -/
def payloadWord (a : Payload) (k : Nat) : Word :=
  BitVec.ofNat 32 (num ((List.range 32).map fun j => payloadBit a (32 * k + j)))

end Sys2Proof.Machine
end

