-- ==== Sys2Proof/Machine/State.lean ====
section
/-! DEFINITION. The architectural state (10_state.md R24 to R28, R34), the reset state (R36), the causes
of a fault of the block (60_exceptions.md R181), and the reasons for which the model itself stops. -/

namespace Sys2Proof.Machine

/-- The state of the block. It has no program counter, no general register, no memory and no mode
(10_state.md R21, R22, 20_memory.md R40, 60_exceptions.md R188). -/
structure State where
  /-- ACC, the accumulator, payload position 0 first (R24). ACC_LEN is its length (R25). -/
  acc : Payload
  /-- ACC_FINAL: false is open, true is final (R26). -/
  accFinal : Bool
  /-- OUT, the last payload yielded (R27). It holds no value while `outValid` is false (R31). -/
  out : Payload
  /-- OUT_VALID (R27). -/
  outValid : Bool
  /-- FAULT, sticky (R28). -/
  fault : Bool
  /-- FAULT_CAUSE: a code of 60_exceptions.md R181 (R28). -/
  faultCause : Octet
  /-- FAULT_OPCODE: bits 7:0 of the header of the command that faulted (R28). -/
  faultOpcode : Octet
  /-- FAULT_FIELD: the 1-based index of the operand whose check failed, or 0 (R28). -/
  faultField : Octet
  /-- The command port: the words received and not yet consumed, oldest first (R34, 20_memory.md R51).
  DEDUCED (safe): it may hold whole commands that wait their turn and, last, a partly received one.
  Log entry 3. -/
  port : List Word
  deriving DecidableEq, Repr

/-- The reset value of every state element (R36).
DESIGN CHOICE (unsafe): R36 gives OUT no value; the model holds the empty payload there, which no
register read shows while OUT_VALID = 0. Log entry 1. -/
def State.reset : State where
  acc := []
  accFinal := false
  out := []
  outValid := false
  fault := false
  faultCause := 0x00
  faultOpcode := 0x00
  faultField := 0x00
  port := []

/-- The causes of a fault of the block (60_exceptions.md R181). Such a fault is no stop of the model: its
entry is a next state (R183). -/
inductive Cause where
  /-- The header's OPCODE is not in the opcode map. -/
  | illegalOpcode
  /-- A header bit of 31:8 is set. -/
  | reservedHeader
  /-- Append, append-zeros or finalize while ACC_FINAL = 1. -/
  | finalized
  /-- WIDTH above APPEND_MAX_WIDTH. -/
  | appendWidth
  /-- VALUE does not fit in WIDTH bits. -/
  | appendValue
  /-- The accumulator would pass M bits. -/
  | overflow
  /-- An operand does not fit the width of its field. -/
  | fieldRange
  /-- An enumerated operand holds a reserved value. -/
  | reservedValue
  /-- N_RB is 0 or above MAX_N_RB. -/
  | nRbRange
  /-- FREQ is above its bound. -/
  | freqRange
  /-- HOP_FLAG = 1 without room for the hopping offset. -/
  | hopConfig
  /-- PSIZE is below the natural size or above M. -/
  | payloadSize
  deriving DecidableEq, Repr

/-- Why the block takes no step: the two stuck states of 93_implementation_defined.md I11 and I12. Both
leave the state as it is. Log entry 4. -/
inductive Fault where
  /-- FAULT = 1: the block takes no step until reset (60_exceptions.md R184). Raised by `step` alone.
  Safe: the spec says the block takes no step. -/
  | halted
  /-- No whole command has been received: the block waits for the host's next word or a reset
  (70_reset_and_hazards.md R214). Raised by `step` alone. Safe: the spec says the block takes no step. -/
  | awaitingWords
  deriving DecidableEq, Repr

/-- What the model gives no meaning to. No command of the opcode table is refused. -/
inductive Refusal where
  /-- A command without a meaning, by its mnemonic. Raised by no arm of `exec`. Safe. -/
  | notModelled (mnemonic : String)
  /-- A read of register index 0xC to 0xF, which names no register (10_state.md R30). Raised by
  `readRegister` alone. Safe: the spec says a model refuses it. -/
  | unassignedRegister
  /-- A read of OUT_LEN or OUT_W0 to OUT_W3 while OUT_VALID = 0 (10_state.md R31). Raised by
  `readRegister` alone. Safe: the spec says the read is refused. -/
  | outHasNoValue
  deriving DecidableEq, Repr

end Sys2Proof.Machine
end

