-- ==== Sys2Proof/Machine/Operands.lean ====
section
/-! DEFINITION. The checks of a command: what an operand must satisfy, the cause and the operand index a
failure records (41_packer_common.md R103 to R109), and the hopping rules that two checks need
(42_dci_0_0.md R120, R124). Every operand is a natural number, so no check wraps (00_scope.md R10). -/

namespace Sys2Proof.Machine

/-- One line `if … : raise Fault(cause, k)` of a rule (00_scope.md R11). -/
structure Check where
  fails : Bool
  cause : Cause
  field : Nat
  deriving DecidableEq, Repr

/-- `if p : raise Fault(cause, k)` (00_scope.md R11). -/
def raiseIf (p : Prop) [Decidable p] (cause : Cause) (k : Nat) : Check := ⟨decide p, cause, k⟩

/-- The first check that fails, in the order written (60_exceptions.md R185). -/
def firstFailure (checks : List Check) : Option Check := checks.find? (fun c => c.fails)

/-- The N_RB operand, operand 1 of every DCI packer (R103). -/
def checkNRb (nRb : Nat) : Check :=
  raiseIf (nRb < 1 ∨ nRb > Config.maxNRb) .nRbRange 1

/-- Operand k fills a field of w bits (R105). -/
def checkField (k v w : Nat) : Check := raiseIf (v ≥ 2 ^ w) .fieldRange k

/-- The FREQ operand of a DCI packer: `op[k] > T(N_RB) - 1`, said without subtraction, which is the same
for every N_RB that passes R103 (R106). -/
def checkFreq (k freq nRb : Nat) : Check :=
  raiseIf (resourceValues nRb ≤ freq) .freqRange k

/-- The FREQ operand where hopping takes the top h bits of its field (R106). -/
def checkFreqSplit (k hopFlag freq nRb h : Nat) : Check :=
  raiseIf (hopFlag = 1 ∧ freq ≥ 2 ^ (freqWidth nRb - h)) .freqRange k

/-- The SMI operand of PACK.D10P: `> 3`, then the reserved value 0 (R107). -/
def checkSmi (k smi : Nat) : List Check :=
  [raiseIf (smi > 3) .fieldRange k, raiseIf (smi = 0) .reservedValue k]

/-- The TBS operand of PACK.D10P and PACK.D10RA: `> 3`, then the reserved value 3 (R107). -/
def checkTbs (k tbs : Nat) : List Check :=
  [raiseIf (tbs > 3) .fieldRange k, raiseIf (tbs = 3) .reservedValue k]

/-- The HOP_COUNT operand of PACK.D00C: not in {0, 2, 4} (R107). -/
def checkHopCount (k hopCount : Nat) : Check :=
  raiseIf (hopCount ≠ 0 ∧ hopCount ≠ 2 ∧ hopCount ≠ 4) .reservedValue k

/-- The PSIZE operand of a DCI packer with natural size `natSize` (R108). -/
def checkPsize (k psize natSize : Nat) : Check :=
  raiseIf (psize < natSize ∨ psize > Config.maxPayload) .payloadSize k

/-- N_ul_hop of PACK.D00C from HOP_COUNT (42_dci_0_0.md R120). Another count has faulted before the value
is used.
DESIGN CHOICE (safe): for another count it is 0. Log entry 12. -/
def hopBitsOfCount (hopCount : Nat) : Nat :=
  if hopCount = 2 then 1 else if hopCount = 4 then 2 else 0

/-- N_ul_hop of PACK.D00TC from N_RB (42_dci_0_0.md R124). -/
def hopBitsOfNRb (nRb : Nat) : Nat := if nRb < 50 then 1 else 2

end Sys2Proof.Machine
end

