-- ==== Sys2Proof/Machine/Ops.lean ====
section
/-! DEFINITION. The named operations over the state: taking a fault (60_exceptions.md R183) and leaving
the fault state (R186, 70_reset_and_hazards.md R211), the accumulator's operations (40_accumulator.md R80
to R83), building and committing a payload (41_packer_common.md R100 to R102), and running a command
under its checks (40_accumulator.md R79). -/

namespace Sys2Proof.Machine

/-! ### The fault entry and the way out of it -/

/-- The cause codes (60_exceptions.md R181). -/
def Cause.code : Cause → Octet
  | .illegalOpcode => 0x01
  | .reservedHeader => 0x02
  | .finalized => 0x03
  | .appendWidth => 0x04
  | .appendValue => 0x05
  | .overflow => 0x06
  | .fieldRange => 0x07
  | .reservedValue => 0x08
  | .nRbRange => 0x09
  | .freqRange => 0x0A
  | .hopConfig => 0x0B
  | .payloadSize => 0x0C

/-- Fault entry: the record is written and OUT_VALID drops; ACC, ACC_FINAL and the bits of OUT keep their
values (60_exceptions.md R183). There is no vector and no saved return point. -/
def takeFault (cause : Cause) (opcode : Octet) (k : Nat) (s : State) : State :=
  { s with
    fault := true
    faultCause := cause.code
    faultOpcode := opcode
    faultField := BitVec.ofNat 8 k
    outValid := false }

/-- Reset, the only way out of the fault state: every state element takes its reset value, and the words
at the port are discarded (70_reset_and_hazards.md R210, R211). There is no trap return
(60_exceptions.md R186). -/
def assertReset (_ : State) : State := State.reset

/-! ### The accumulator -/

/-- Start a new, empty payload (40_accumulator.md R80). -/
def clearAcc (s : State) : State := { s with acc := [], accFinal := false }

/-- Extend the accumulator at its tail (40_accumulator.md R81, R82, 20_memory.md R43). -/
def extendAcc (a : Payload) (s : State) : State := { s with acc := s.acc ++ a }

/-- Yield the accumulator's content (40_accumulator.md R83). -/
def finalizeAcc (s : State) : State := { s with out := s.acc, outValid := true, accFinal := true }

/-! ### Building and committing a payload -/

/-- One line of a packer's layout: `emit(v, w)` or `emitz(n)` (41_packer_common.md R100). -/
inductive Emission where
  | emit (v w : Nat)
  | emitz (n : Nat)
  deriving DecidableEq, Repr

/-- The bits one line appends (41_packer_common.md R100). -/
def Emission.payload : Emission → Payload
  | .emit v w => bits v w
  | .emitz n => zeros n

/-- The working list P after a whole layout, empty before it (41_packer_common.md R100, R101). -/
def emitAll (layout : List Emission) : Payload := layout.flatMap Emission.payload

/-- The commit of a packing command (41_packer_common.md R102). -/
def commit (p : Payload) (s : State) : State :=
  { s with acc := p, accFinal := true, out := p, outValid := true }

/-! ### Running a command -/

/-- A command runs its checks in order; the first that fails takes the fault and ends the command, and
where none fails the command has its effect, all at once (40_accumulator.md R79, 20_memory.md R49,
60_exceptions.md R185). -/
def runChecked (opcode : Octet) (checks : List Check) (effect : State → State) (s : State) :
    Host.Outcome State Fault Refusal :=
  match firstFailure checks with
  | some c => .next (takeFault c.cause opcode c.field s)
  | none => .next (effect s)

/-- A packing command: validate, build, commit (41_packer_common.md R101). -/
def runPacker (opcode : Octet) (checks : List Check) (layout : List Emission) (s : State) :
    Host.Outcome State Fault Refusal :=
  runChecked opcode checks (fun t => commit (emitAll layout) t) s

end Sys2Proof.Machine
end

