-- ==== Sys2Proof/Machine/Accumulator.lean ====
section
/-! DEFINITION. The accumulator commands (40_accumulator.md R80 to R83). -/

namespace Sys2Proof.Machine

/-- ACC.CLEAR (R80): no check, so it never faults once decoded. -/
def execAccClear (s : State) : Host.Outcome State Fault Refusal :=
  runChecked Instr.accClear.opcode [] clearAcc s

/-- The checks of ACC.APPEND, in the order of R81. -/
def appendChecks (value width : Nat) (s : State) : List Check := [
  raiseIf (s.accFinal = true) .finalized 0,
  raiseIf (width > Config.appendMaxWidth) .appendWidth 2,
  raiseIf (value ≥ 2 ^ width) .appendValue 1,
  raiseIf (s.acc.length + width > Config.maxPayload) .overflow 2]

/-- ACC.APPEND VALUE, WIDTH (R81). The fit check comes first, so no value is cut (R84). -/
def execAccAppend (value width : Nat) (s : State) : Host.Outcome State Fault Refusal :=
  runChecked (Instr.accAppend value width).opcode (appendChecks value width s)
    (fun t => extendAcc (bits value width) t) s

/-- The checks of ACC.ZEROS, in the order of R82. -/
def zerosChecks (n : Nat) (s : State) : List Check := [
  raiseIf (s.accFinal = true) .finalized 0,
  raiseIf (s.acc.length + n > Config.maxPayload) .overflow 1]

/-- ACC.ZEROS N (R82). -/
def execAccZeros (n : Nat) (s : State) : Host.Outcome State Fault Refusal :=
  runChecked (Instr.accZeros n).opcode (zerosChecks n s) (fun t => extendAcc (zeros n) t) s

/-- The check of ACC.FINALIZE (R83). -/
def finalizeChecks (s : State) : List Check := [
  raiseIf (s.accFinal = true) .finalized 0]

/-- ACC.FINALIZE (R83). -/
def execAccFinalize (s : State) : Host.Outcome State Fault Refusal :=
  runChecked Instr.accFinalize.opcode (finalizeChecks s) finalizeAcc s

end Sys2Proof.Machine
end

