-- ==== Sys2Proof/Machine/Dci00.lean ====
section
/-! DEFINITION. The DCI format 0_0 packing commands (42_dci_0_0.md R120 to R126). -/

namespace Sys2Proof.Machine

/-- `freq_field()`: the W bits of the frequency-domain resource assignment; with hopping, the top h bits
carry the hopping offset and the rest the assignment proper (R121). -/
def freqField (hopFlag hopOffset freq width h : Nat) : List Emission :=
  if hopFlag = 1 then [.emit hopOffset h, .emit freq (width - h)] else [.emit freq width]

/-! ### PACK.D00C -/

/-- NAT of PACK.D00C (41_packer_common.md R104). -/
def natD00C (d : D00C) : Nat := 20 + freqWidth d.nRb + d.sulPresent

/-- The checks of PACK.D00C, in operand order (R122). -/
def checksD00C (d : D00C) : List Check := [
  checkNRb d.nRb,
  checkHopCount 2 d.hopCount,
  raiseIf (d.hopFlag ≥ 2) .fieldRange 3,
  raiseIf (d.hopFlag = 1 ∧ hopBitsOfCount d.hopCount = 0) .hopConfig 3,
  raiseIf (d.hopFlag = 1 ∧ freqWidth d.nRb < hopBitsOfCount d.hopCount) .hopConfig 3,
  checkField 4 d.hopOffset (hopBitsOfCount d.hopCount),
  checkFreq 5 d.freq d.nRb,
  checkFreqSplit 5 d.hopFlag d.freq d.nRb (hopBitsOfCount d.hopCount),
  checkField 6 d.time 4,
  checkField 7 d.mcs 5,
  checkField 8 d.ndi 1,
  checkField 9 d.rv 2,
  checkField 10 d.harq 4,
  checkField 11 d.tpc 2,
  checkField 12 d.sulPresent 1,
  checkField 13 d.sul 1,
  checkPsize 14 d.psize (natD00C d)]

/-- The layout of PACK.D00C; the padding stands before the UL/SUL indicator (R122, 41_packer_common.md
R110). -/
def layoutD00C (d : D00C) : List Emission :=
  [.emit 0 1]
    ++ freqField d.hopFlag d.hopOffset d.freq (freqWidth d.nRb) (hopBitsOfCount d.hopCount)
    ++ [.emit d.time 4, .emit d.hopFlag 1, .emit d.mcs 5, .emit d.ndi 1, .emit d.rv 2,
      .emit d.harq 4, .emit d.tpc 2, .emitz (d.psize - natD00C d)]
    ++ (if d.sulPresent = 1 then [.emit d.sul 1] else [])

/-- PACK.D00C (R122). -/
def execPackD00C (d : D00C) (s : State) : Host.Outcome State Fault Refusal :=
  runPacker (Instr.packD00C d).opcode (checksD00C d) (layoutD00C d) s

/-! ### PACK.D00TC -/

/-- NAT of PACK.D00TC (41_packer_common.md R104). -/
def natD00TC (d : D00TC) : Nat := 15 + freqWidth d.nRb

/-- The checks of PACK.D00TC, in operand order (R125). -/
def checksD00TC (d : D00TC) : List Check := [
  checkNRb d.nRb,
  raiseIf (d.hopFlag ≥ 2) .fieldRange 2,
  raiseIf (d.hopFlag = 1 ∧ freqWidth d.nRb < hopBitsOfNRb d.nRb) .hopConfig 2,
  checkField 3 d.hopOffset (hopBitsOfNRb d.nRb),
  checkFreq 4 d.freq d.nRb,
  checkFreqSplit 4 d.hopFlag d.freq d.nRb (hopBitsOfNRb d.nRb),
  checkField 5 d.time 4,
  checkField 6 d.mcs 5,
  checkField 7 d.rv 2,
  checkField 8 d.tpc 2,
  checkPsize 9 d.psize (natD00TC d)]

/-- The layout of PACK.D00TC: NDI, HARQ and UL/SUL take no bits (R125, 90_conflicts.md C7). -/
def layoutD00TC (d : D00TC) : List Emission :=
  [.emit 0 1]
    ++ freqField d.hopFlag d.hopOffset d.freq (freqWidth d.nRb) (hopBitsOfNRb d.nRb)
    ++ [.emit d.time 4, .emit d.hopFlag 1, .emit d.mcs 5, .emit d.rv 2, .emit d.tpc 2,
      .emitz (d.psize - natD00TC d)]

/-- PACK.D00TC (R125). -/
def execPackD00TC (d : D00TC) (s : State) : Host.Outcome State Fault Refusal :=
  runPacker (Instr.packD00TC d).opcode (checksD00TC d) (layoutD00TC d) s

end Sys2Proof.Machine
end

