-- ==== Sys2Proof/Machine/Dci10.lean ====
section
/-! DEFINITION. The DCI format 1_0 packing commands (43_dci_1_0.md R140 to R150). -/

namespace Sys2Proof.Machine

/-! ### PACK.D10C -/

/-- NAT of PACK.D10C (41_packer_common.md R104). -/
def natD10C (d : D10C) : Nat := 28 + freqWidth d.nRb

/-- The checks of PACK.D10C, in operand order (R140). -/
def checksD10C (d : D10C) : List Check := [
  checkNRb d.nRb,
  checkFreq 2 d.freq d.nRb,
  checkField 3 d.time 4,
  checkField 4 d.vrb 1,
  checkField 5 d.mcs 5,
  checkField 6 d.ndi 1,
  checkField 7 d.rv 2,
  checkField 8 d.harq 4,
  checkField 9 d.dai 2,
  checkField 10 d.tpc 2,
  checkField 11 d.pri 3,
  checkField 12 d.k1 3,
  checkPsize 13 d.psize (natD10C d)]

/-- The layout of PACK.D10C (R140). -/
def layoutD10C (d : D10C) : List Emission := [
  .emit 1 1, .emit d.freq (freqWidth d.nRb), .emit d.time 4, .emit d.vrb 1, .emit d.mcs 5,
  .emit d.ndi 1, .emit d.rv 2, .emit d.harq 4, .emit d.dai 2, .emit d.tpc 2, .emit d.pri 3,
  .emit d.k1 3, .emitz (d.psize - natD10C d)]

/-- PACK.D10C (R140). -/
def execPackD10C (d : D10C) (s : State) : Host.Outcome State Fault Refusal :=
  runPacker (Instr.packD10C d).opcode (checksD10C d) (layoutD10C d) s

/-! ### PACK.D10P -/

/-- NAT of PACK.D10P (41_packer_common.md R104). -/
def natD10P (d : D10P) : Nat := 28 + freqWidth d.nRb

/-- The checks of PACK.D10P, in operand order; a gated operand is checked too (R143, 41_packer_common.md
R109). -/
def checksD10P (d : D10P) : List Check :=
  [checkNRb d.nRb]
    ++ checkSmi 2 d.smi
    ++ [checkField 3 d.sm 8, checkFreq 4 d.freq d.nRb, checkField 5 d.time 4, checkField 6 d.vrb 1,
      checkField 7 d.mcs 5]
    ++ checkTbs 8 d.tbs
    ++ [checkPsize 9 d.psize (natD10P d)]

/-- The layout of PACK.D10P: SMI gates the short message and the scheduling fields, and a gated field is
zeros (R142, R143). -/
def layoutD10P (d : D10P) : List Emission :=
  [.emit d.smi 2]
    ++ (if d.smi = 2 ∨ d.smi = 3 then [.emit d.sm 8] else [.emitz 8])
    ++ (if d.smi = 1 ∨ d.smi = 3 then
          [.emit d.freq (freqWidth d.nRb), .emit d.time 4, .emit d.vrb 1, .emit d.mcs 5,
            .emit d.tbs 2]
        else [.emitz (freqWidth d.nRb + 12)])
    ++ [.emitz 6, .emitz (d.psize - natD10P d)]

/-- PACK.D10P (R143). -/
def execPackD10P (d : D10P) (s : State) : Host.Outcome State Fault Refusal :=
  runPacker (Instr.packD10P d).opcode (checksD10P d) (layoutD10P d) s

/-! ### PACK.D10SI -/

/-- NAT of PACK.D10SI (41_packer_common.md R104). -/
def natD10SI (d : D10SI) : Nat := 28 + freqWidth d.nRb

/-- The checks of PACK.D10SI, in operand order (R145). -/
def checksD10SI (d : D10SI) : List Check := [
  checkNRb d.nRb,
  checkFreq 2 d.freq d.nRb,
  checkField 3 d.time 4,
  checkField 4 d.vrb 1,
  checkField 5 d.mcs 5,
  checkField 6 d.rv 2,
  checkField 7 d.sii 1,
  checkPsize 8 d.psize (natD10SI d)]

/-- The layout of PACK.D10SI, without a format identifier bit (R145, 90_conflicts.md C3). -/
def layoutD10SI (d : D10SI) : List Emission := [
  .emit d.freq (freqWidth d.nRb), .emit d.time 4, .emit d.vrb 1, .emit d.mcs 5, .emit d.rv 2,
  .emit d.sii 1, .emitz 15, .emitz (d.psize - natD10SI d)]

/-- PACK.D10SI (R145). -/
def execPackD10SI (d : D10SI) (s : State) : Host.Outcome State Fault Refusal :=
  runPacker (Instr.packD10SI d).opcode (checksD10SI d) (layoutD10SI d) s

/-! ### PACK.D10RA -/

/-- NAT of PACK.D10RA (41_packer_common.md R104). -/
def natD10RA (d : D10RA) : Nat := 28 + freqWidth d.nRb

/-- The checks of PACK.D10RA, in operand order (R147). -/
def checksD10RA (d : D10RA) : List Check :=
  [checkNRb d.nRb, checkFreq 2 d.freq d.nRb, checkField 3 d.time 4, checkField 4 d.vrb 1,
    checkField 5 d.mcs 5]
    ++ checkTbs 6 d.tbs
    ++ [checkPsize 7 d.psize (natD10RA d)]

/-- The layout of PACK.D10RA, without a format identifier bit (R147, 90_conflicts.md C3). -/
def layoutD10RA (d : D10RA) : List Emission := [
  .emit d.freq (freqWidth d.nRb), .emit d.time 4, .emit d.vrb 1, .emit d.mcs 5, .emit d.tbs 2,
  .emitz 16, .emitz (d.psize - natD10RA d)]

/-- PACK.D10RA (R147). -/
def execPackD10RA (d : D10RA) (s : State) : Host.Outcome State Fault Refusal :=
  runPacker (Instr.packD10RA d).opcode (checksD10RA d) (layoutD10RA d) s

/-! ### PACK.D10TC -/

/-- NAT of PACK.D10TC (41_packer_common.md R104). -/
def natD10TC (d : D10TC) : Nat := 26 + freqWidth d.nRb

/-- The checks of PACK.D10TC, in operand order (R149). -/
def checksD10TC (d : D10TC) : List Check := [
  checkNRb d.nRb,
  checkFreq 2 d.freq d.nRb,
  checkField 3 d.time 4,
  checkField 4 d.vrb 1,
  checkField 5 d.mcs 5,
  checkField 6 d.ndi 1,
  checkField 7 d.rv 2,
  checkField 8 d.harq 4,
  checkField 9 d.tpc 2,
  checkField 10 d.pri 3,
  checkField 11 d.k1 3,
  checkPsize 12 d.psize (natD10TC d)]

/-- The layout of PACK.D10TC: the downlink assignment index takes no bits (R149). -/
def layoutD10TC (d : D10TC) : List Emission := [
  .emit 1 1, .emit d.freq (freqWidth d.nRb), .emit d.time 4, .emit d.vrb 1, .emit d.mcs 5,
  .emit d.ndi 1, .emit d.rv 2, .emit d.harq 4, .emit d.tpc 2, .emit d.pri 3, .emit d.k1 3,
  .emitz (d.psize - natD10TC d)]

/-- PACK.D10TC (R149). -/
def execPackD10TC (d : D10TC) (s : State) : Host.Outcome State Fault Refusal :=
  runPacker (Instr.packD10TC d).opcode (checksD10TC d) (layoutD10TC d) s

end Sys2Proof.Machine
end

