-- ==== Sys2Proof/Machine/Rar.lean ====
section
/-! DEFINITION. The RAR UL grant packing command (44_rar.md R170, R171). -/

namespace Sys2Proof.Machine

/-- The checks of PACK.RAR, in operand order (R170). -/
def checksRar (d : RarGrant) : List Check := [
  checkField 1 d.hopFlag 1,
  checkField 2 d.freq 14,
  checkField 3 d.time 4,
  checkField 4 d.mcs 4,
  checkField 5 d.tpc 3,
  checkField 6 d.csi 1]

/-- The 27-bit layout of PACK.RAR, without padding (R170). -/
def layoutRar (d : RarGrant) : List Emission := [
  .emit d.hopFlag 1, .emit d.freq 14, .emit d.time 4, .emit d.mcs 4, .emit d.tpc 3, .emit d.csi 1]

/-- PACK.RAR (R170). -/
def execPackRar (d : RarGrant) (s : State) : Host.Outcome State Fault Refusal :=
  runPacker (Instr.packRar d).opcode (checksRar d) (layoutRar d) s

end Sys2Proof.Machine
end

