-- ==== Sys2Proof/Machine/Dispatch.lean ====
section
/-! DEFINITION. One arm per command of the opcode map (30_encoding.md R63). Whether the block may run a
command at all (FAULT = 0, every word arrived) is decided where the command is fetched, in Port.lean. -/

namespace Sys2Proof.Machine

def exec (i : Instr) (s : State) : Host.Outcome State Fault Refusal :=
  match i with
  | .accClear => Sys2Proof.Machine.execAccClear s
  | .accAppend value width => Sys2Proof.Machine.execAccAppend value width s
  | .accZeros n => Sys2Proof.Machine.execAccZeros n s
  | .accFinalize => Sys2Proof.Machine.execAccFinalize s
  | .packD00C d => Sys2Proof.Machine.execPackD00C d s
  | .packD00TC d => Sys2Proof.Machine.execPackD00TC d s
  | .packD10C d => Sys2Proof.Machine.execPackD10C d s
  | .packD10P d => Sys2Proof.Machine.execPackD10P d s
  | .packD10SI d => Sys2Proof.Machine.execPackD10SI d s
  | .packD10RA d => Sys2Proof.Machine.execPackD10RA d s
  | .packD10TC d => Sys2Proof.Machine.execPackD10TC d s
  | .packRar d => Sys2Proof.Machine.execPackRar d s

end Sys2Proof.Machine
end

