-- ==== Sys2Proof/Machine/Port.lean ====
section
/-! DEFINITION. The command port (10_state.md R34): taking the next whole command from it, with the
header checks of 30_encoding.md R62. -/

namespace Sys2Proof.Machine

/-- What the block finds at its command port. -/
inductive Fetch where
  /-- FAULT = 1: the port is blocked (60_exceptions.md R184). -/
  | halted
  /-- No whole command has been received (70_reset_and_hazards.md R214). -/
  | awaiting
  /-- The header is illegal: the state after the fault entry. The header alone is consumed
  (30_encoding.md R62, 92_eei_decisions.md D30). -/
  | faulted (s : State)
  /-- A whole command, and the state with its words consumed. -/
  | command (i : Instr) (s : State)
  deriving DecidableEq, Repr

/-- Take the next command from the port. The words of a command are consumed once, whether it then faults
or not (20_memory.md R54). -/
def fetch (s : State) : Fetch :=
  if s.fault then .halted
  else
    match decode s.port with
    | .incomplete => .awaiting
    | .reservedHeader opcode rest =>
      .faulted (takeFault .reservedHeader opcode 0 { s with port := rest })
    | .illegalOpcode opcode rest =>
      .faulted (takeFault .illegalOpcode opcode 0 { s with port := rest })
    | .command i rest => .command i { s with port := rest }

end Sys2Proof.Machine
end

