-- ==== Sys2Proof/Machine/Step.lean ====
section
/-! DEFINITION. One step of the block: one whole command, atomically (20_memory.md R49, R51,
70_reset_and_hazards.md R215). -/

namespace Sys2Proof.Machine

/-- One step. With FAULT = 1 or without a whole command the block takes none, and the model says so by
name; the state then stays as it is (60_exceptions.md R184, 70_reset_and_hazards.md R214). -/
def step (s : State) : Host.Outcome State Fault Refusal :=
  match fetch s with
  | .halted => .fault .halted
  | .awaiting => .fault .awaitingWords
  | .faulted t => .next t
  | .command i t => exec i t

/-- The state with one command, given by its bits, as the only command at the port: what the host's
pushing its words into an empty port leaves there (log entry 5). -/
def State.withFetchWord (s : State) (nbits w : Nat) : State :=
  { s with port := firstCommandWords (tableWords nbits w) }

end Sys2Proof.Machine
end

