-- ==== Sys2Proof/Machine/Flags.lean ====
section
/-! DEFINITION. The status bits and the fault record as the host sees them (10_state.md R29). The block
has no condition codes (R33): no command computes a flag from a result. -/

namespace Sys2Proof.Machine

/-- STATUS: bit 0 FAULT, bit 1 ACC_FINAL, bit 2 OUT_VALID, bits 31:3 zero (R29). -/
def statusWord (s : State) : Word :=
  BitVec.ofNat 32 (s.fault.toNat + 2 * s.accFinal.toNat + 4 * s.outValid.toNat)

/-- FAULT_INFO: bits 7:0 FAULT_CAUSE, 15:8 FAULT_OPCODE, 23:16 FAULT_FIELD, 31:24 zero (R29). -/
def faultInfoWord (s : State) : Word :=
  BitVec.ofNat 32
    (s.faultCause.toNat + 2 ^ 8 * s.faultOpcode.toNat + 2 ^ 16 * s.faultField.toNat)

end Sys2Proof.Machine
end

