-- ==== Sys2Proof/Machine/HostPort.lean ====
section
/-! DEFINITION. What the host can do to the block besides reset, which is in Ops.lean: push a command
word and read a register (70_reset_and_hazards.md R217, 10_state.md R29 to R31). There is no register
write (R32). -/

namespace Sys2Proof.Machine

/-- The host pushes one word. While FAULT = 1 the block accepts none and the port stays blocked
(60_exceptions.md R184). -/
def pushWord (w : Word) (s : State) : State :=
  if s.fault then s else { s with port := s.port ++ [w] }

/-- The host pushes words, first word first. -/
def pushWords (ws : List Word) (s : State) : State := ws.foldl (fun t w => pushWord w t) s

/-- A register that shows OUT has no value while OUT_VALID = 0 (10_state.md R31). -/
def outRegister (s : State) (value : Word) : Except Refusal Word :=
  if s.outValid then .ok value else .error .outHasNoValue

/-- A length as it is shown, in bits 7:0 (10_state.md R29). -/
def lengthWord (a : Payload) : Word := (BitVec.ofNat 8 a.length).setWidth 32

/-- The register read port: sixteen read-only registers by a 4-bit index (10_state.md R29 to R31). The
state is only read, so a read has no side effect (R30). -/
def readRegister (index : BitVec 4) (s : State) : Except Refusal Word :=
  match index.toNat with
  | 0x0 => .ok (statusWord s)
  | 0x1 => .ok (faultInfoWord s)
  | 0x2 => .ok (lengthWord s.acc)
  | 0x3 => outRegister s (lengthWord s.out)
  | 0x4 => .ok (payloadWord s.acc 0)
  | 0x5 => .ok (payloadWord s.acc 1)
  | 0x6 => .ok (payloadWord s.acc 2)
  | 0x7 => .ok (payloadWord s.acc 3)
  | 0x8 => outRegister s (payloadWord s.out 0)
  | 0x9 => outRegister s (payloadWord s.out 1)
  | 0xA => outRegister s (payloadWord s.out 2)
  | 0xB => outRegister s (payloadWord s.out 3)
  | _ => .error .unassignedRegister

end Sys2Proof.Machine
end

