-- ==== Sys2Proof/Machine/System.lean ====
section
/-! DEFINITION. The block and its host together: the events of either agent (10_state.md R20), one after
another, and sequences of commands run back to back. -/

namespace Sys2Proof.Machine

/-- One thing that happens to the block: a step of its own, or one of the host's interactions
(70_reset_and_hazards.md R217). -/
inductive Event where
  /-- The block takes a step. -/
  | blockStep
  /-- The host pushes a word. -/
  | push (w : Word)
  /-- The host reads a register. -/
  | read (index : BitVec 4)
  /-- The host asserts reset. -/
  | resetInput
  deriving DecidableEq, Repr

/-- What an event does to the state. A register read changes nothing; where it has no value it is refused
(10_state.md R30, R31). -/
def react (e : Event) (s : State) : Host.Outcome State Fault Refusal :=
  match e with
  | .blockStep => step s
  | .push w => .next (pushWord w s)
  | .read index =>
    match readRegister index s with
    | .ok _ => .next s
    | .error r => .refused r
  | .resetInput => .next (assertReset s)

/-- Commands executed one after another, each completing before the next starts, as long as FAULT = 0
(20_memory.md R51, 60_exceptions.md R184). -/
def runCommands : List Instr → State → Host.Outcome State Fault Refusal
  | [], s => .next s
  | i :: is, s =>
    if s.fault then .fault .halted
    else
      match exec i s with
      | .next t => runCommands is t
      | .fault r => .fault r
      | .refused r => .refused r

/-- The accumulator command that does what one line of a layout does (41_packer_common.md R116). -/
def Emission.command : Emission → Instr
  | .emit v w => .accAppend v w
  | .emitz n => .accZeros n

end Sys2Proof.Machine
end

