-- ==== Sys2Proof/Safety.lean ====
section
/-! DEFINITION. What claims about the block speak of: the invariants of 10_state.md R35, the legal
operands of 30_encoding.md R65, the two kinds of state a command ends in, and the result of a run
(70_reset_and_hazards.md R216, R220). -/

namespace Sys2Proof.Machine

/-! ### Invariants -/

/-- The invariants that every step keeps (10_state.md R35, its first three items). -/
def State.Inv (s : State) : Prop :=
  s.acc.length ≤ Config.maxPayload ∧ s.out.length ≤ Config.maxPayload ∧
  (s.fault = false → s.faultCause = 0x00 ∧ s.faultOpcode = 0x00 ∧ s.faultField = 0x00) ∧
  (s.fault = true → s.outValid = false ∧ s.faultCause ≠ 0x00)

/-- A final accumulator holds what was yielded: since finalize and the packing commands set ACC_FINAL and
write OUT from the same bits, and a final accumulator is not extended (R26, R27). -/
def State.FinalInv (s : State) : Prop := s.accFinal = true → s.out = s.acc

/-- FAULT_CAUSE holds no reserved code, and FAULT_FIELD no index past the longest operand list
(60_exceptions.md R181, 30_encoding.md R60). -/
def State.RecordInv (s : State) : Prop :=
  s.faultCause.toNat ≤ 0x0C ∧ s.faultField.toNat ≤ 14

/-! ### The two ends of a command -/

/-- The state after the fault entry, spelled out (60_exceptions.md R183). -/
def faulted (cause opcode field : Octet) (s : State) : State :=
  { s with
    fault := true, faultCause := cause, faultOpcode := opcode, faultField := field,
    outValid := false }

/-- The state after a packing command's commit of the payload p, spelled out (41_packer_common.md
R102). -/
def packed (p : Payload) (s : State) : State :=
  { s with acc := p, accFinal := true, out := p, outValid := true }

/-! ### The result of a run -/

/-- The payload the host may take: OUT, where FAULT = 0 and OUT_VALID = 1 (70_reset_and_hazards.md
R216, R220). -/
def deliveredPayload (s : State) : Option Payload :=
  if s.fault = false ∧ s.outValid = true then some s.out else none

/-- Nothing is left at the command port: every whole command has been executed and none is partly
received (70_reset_and_hazards.md R216). -/
def quiescent (s : State) : Prop := s.port = []

end Sys2Proof.Machine

namespace Sys2Proof

open Machine

/-! ### Legal operands of the packing commands -/

/-- The hopping operands of a 0_0 command with W frequency bits of which h carry the offset (R65). -/
def HopLegal (hopFlag hopOffset freq width h : Nat) : Prop :=
  hopFlag < 2 ∧ hopOffset < 2 ^ h ∧ (hopFlag = 1 → h ≤ width ∧ freq < 2 ^ (width - h))

/-- N_RB and FREQ of a DCI packer (R65). -/
def FreqLegal (nRb freq : Nat) : Prop :=
  1 ≤ nRb ∧ nRb ≤ Config.maxNRb ∧ freq ≤ resourceValues nRb - 1

/-- PSIZE of a DCI packer with natural size n (R65). -/
def SizeLegal (psize n : Nat) : Prop := n ≤ psize ∧ psize ≤ Config.maxPayload

/-- The legal range of every operand of PACK.D00C (R65). -/
def D00C.Legal (d : D00C) : Prop :=
  FreqLegal d.nRb d.freq ∧ (d.hopCount = 0 ∨ d.hopCount = 2 ∨ d.hopCount = 4) ∧
  (d.hopFlag = 1 → d.hopCount ≠ 0) ∧
  HopLegal d.hopFlag d.hopOffset d.freq (freqWidth d.nRb) (hopBitsOfCount d.hopCount) ∧
  d.time < 16 ∧ d.mcs < 32 ∧ d.ndi < 2 ∧ d.rv < 4 ∧ d.harq < 16 ∧ d.tpc < 4 ∧
  d.sulPresent < 2 ∧ d.sul < 2 ∧ SizeLegal d.psize (20 + freqWidth d.nRb + d.sulPresent)

/-- The legal range of every operand of PACK.D00TC (R65). -/
def D00TC.Legal (d : D00TC) : Prop :=
  FreqLegal d.nRb d.freq ∧
  HopLegal d.hopFlag d.hopOffset d.freq (freqWidth d.nRb) (hopBitsOfNRb d.nRb) ∧
  d.time < 16 ∧ d.mcs < 32 ∧ d.rv < 4 ∧ d.tpc < 4 ∧ SizeLegal d.psize (15 + freqWidth d.nRb)

/-- The legal range of every operand of PACK.D10C (R65). -/
def D10C.Legal (d : D10C) : Prop :=
  FreqLegal d.nRb d.freq ∧ d.time < 16 ∧ d.vrb < 2 ∧ d.mcs < 32 ∧ d.ndi < 2 ∧ d.rv < 4 ∧
  d.harq < 16 ∧ d.dai < 4 ∧ d.tpc < 4 ∧ d.pri < 8 ∧ d.k1 < 8 ∧
  SizeLegal d.psize (28 + freqWidth d.nRb)

/-- The legal range of every operand of PACK.D10P (R65). -/
def D10P.Legal (d : D10P) : Prop :=
  FreqLegal d.nRb d.freq ∧ (d.smi = 1 ∨ d.smi = 2 ∨ d.smi = 3) ∧ d.sm < 256 ∧ d.time < 16 ∧
  d.vrb < 2 ∧ d.mcs < 32 ∧ d.tbs < 3 ∧ SizeLegal d.psize (28 + freqWidth d.nRb)

/-- The legal range of every operand of PACK.D10SI (R65). -/
def D10SI.Legal (d : D10SI) : Prop :=
  FreqLegal d.nRb d.freq ∧ d.time < 16 ∧ d.vrb < 2 ∧ d.mcs < 32 ∧ d.rv < 4 ∧ d.sii < 2 ∧
  SizeLegal d.psize (28 + freqWidth d.nRb)

/-- The legal range of every operand of PACK.D10RA (R65). -/
def D10RA.Legal (d : D10RA) : Prop :=
  FreqLegal d.nRb d.freq ∧ d.time < 16 ∧ d.vrb < 2 ∧ d.mcs < 32 ∧ d.tbs < 3 ∧
  SizeLegal d.psize (28 + freqWidth d.nRb)

/-- The legal range of every operand of PACK.D10TC (R65). -/
def D10TC.Legal (d : D10TC) : Prop :=
  FreqLegal d.nRb d.freq ∧ d.time < 16 ∧ d.vrb < 2 ∧ d.mcs < 32 ∧ d.ndi < 2 ∧ d.rv < 4 ∧
  d.harq < 16 ∧ d.tpc < 4 ∧ d.pri < 8 ∧ d.k1 < 8 ∧ SizeLegal d.psize (26 + freqWidth d.nRb)

/-- The legal range of every operand of PACK.RAR (R65). -/
def RarGrant.Legal (d : RarGrant) : Prop :=
  d.hopFlag < 2 ∧ d.freq < 2 ^ 14 ∧ d.time < 16 ∧ d.mcs < 16 ∧ d.tpc < 8 ∧ d.csi < 2

/-! ### What the packing commands share -/

/-- The layout of a packing command, none for an accumulator command (41_packer_common.md R101). -/
def Instr.packLayout : Instr → Option (List Emission)
  | .accClear => none
  | .accAppend _ _ => none
  | .accZeros _ => none
  | .accFinalize => none
  | .packD00C d => some (layoutD00C d)
  | .packD00TC d => some (layoutD00TC d)
  | .packD10C d => some (layoutD10C d)
  | .packD10P d => some (layoutD10P d)
  | .packD10SI d => some (layoutD10SI d)
  | .packD10RA d => some (layoutD10RA d)
  | .packD10TC d => some (layoutD10TC d)
  | .packRar d => some (layoutRar d)

/-- A packing command with every operand in its legal range (R65); no accumulator command is one. -/
def Instr.PackLegal : Instr → Prop
  | .accClear => False
  | .accAppend _ _ => False
  | .accZeros _ => False
  | .accFinalize => False
  | .packD00C d => d.Legal
  | .packD00TC d => d.Legal
  | .packD10C d => d.Legal
  | .packD10P d => d.Legal
  | .packD10SI d => d.Legal
  | .packD10RA d => d.Legal
  | .packD10TC d => d.Legal
  | .packRar d => d.Legal

/-- The exact length a packing command yields: PSIZE, or 27 for PACK.RAR (41_packer_common.md R112). -/
def Instr.payloadSize : Instr → Option Nat
  | .accClear => none
  | .accAppend _ _ => none
  | .accZeros _ => none
  | .accFinalize => none
  | .packD00C d => some d.psize
  | .packD00TC d => some d.psize
  | .packD10C d => some d.psize
  | .packD10P d => some d.psize
  | .packD10SI d => some d.psize
  | .packD10RA d => some d.psize
  | .packD10TC d => some d.psize
  | .packRar _ => some 27

end Sys2Proof
end

