-- ==== Sys2Proof/Certificates/Slice0/Obligations.lean ====
section
/-! DEFINITION. The statements for the provers. A rule's next state is spelled out with `faulted` (the
fault entry, 60_exceptions.md R183) and `packed` (the commit, 41_packer_common.md R102); what neither
names is unchanged, so an equation of the next state is also the command's frame. -/

open Sys2Proof Sys2Proof.Machine

/-! ### Parameters and arithmetic -/

/-- The parameters of the step have the values of 00_scope.md R6. That the model fixes M and MAX_N_RB, which a
model may also take as arguments, is its own choice (log entry 2). -/
def Obligations.ParameterValues : Prop :=
  Config.maxPayload = 128 ∧ Config.wordBits = 32 ∧ Config.appendMaxWidth = 32 ∧
  Config.maxNRb = 275 ∧ Config.outWords = 4

/-- 00_scope.md R9: `bits(v, w)` lists `v[w-1]` down to `v[0]`, `bits(0, 0)` is empty, and `num` is its
inverse, which the spec marks "derived: from rule R8 and rule R9". -/
def Obligations.BitsAreMsbFirstAndNumInvertsThem : Prop :=
  ∀ v w : Nat, v < 2 ^ w →
    (bits v w).length = w ∧
    (∀ j, j < w → (bits v w)[j]? = some (v.testBit (w - 1 - j))) ∧
    num (bits v w) = v ∧ bits 0 0 = []

/-- 00_scope.md R8: a payload read as a number is the sum of `a⟨p⟩ · 2^(|a| - 1 - p)`. -/
def Obligations.NumIsThePositionalSum : Prop :=
  ∀ a : Payload,
    num a = ∑ p ∈ Finset.range a.length, (payloadBit a p).toNat * 2 ^ (a.length - 1 - p)

/-- 00_scope.md R12: `clog2(x)` is the least w with `2^w ≥ x`, and its four worked values. -/
def Obligations.Clog2IsLeastExponent : Prop :=
  (∀ x : Nat, 1 ≤ x → x ≤ 2 ^ clog2 x ∧ ∀ w, x ≤ 2 ^ w → clog2 x ≤ w) ∧
  clog2 1 = 0 ∧ clog2 2 = 1 ∧ clog2 3 = 2 ∧ clog2 4 = 2

/-- 41_packer_common.md R114: FW is non-decreasing in N_RB, its values for 1 to 275, and no N_RB gives
FW = 1. The spec marks the values "derived: from rule R12 and rule R13". -/
def Obligations.FrequencyWidthTable : Prop :=
  (∀ m n : Nat, 1 ≤ m → m ≤ n → freqWidth m ≤ freqWidth n) ∧
  (∀ n : Nat, 1 ≤ n → freqWidth n ≠ 1) ∧
  (∀ n : Nat, 1 ≤ n → n ≤ 275 →
    freqWidth n =
      if n ≤ 1 then 0 else if n ≤ 2 then 2 else if n ≤ 3 then 3 else if n ≤ 5 then 4
      else if n ≤ 7 then 5 else if n ≤ 10 then 6 else if n ≤ 15 then 7 else if n ≤ 22 then 8
      else if n ≤ 31 then 9 else if n ≤ 44 then 10 else if n ≤ 63 then 11 else if n ≤ 90 then 12
      else if n ≤ 127 then 13 else if n ≤ 180 then 14 else if n ≤ 255 then 15 else 16)

/-! ### Encoding and decoding -/

/-- Every well-formed command is decoded from its own words, whatever words follow it. -/
def Obligations.DecodeOfEncodeIsTheCommand : Prop :=
  ∀ (i : Instr) (rest : List Word), i.wellFormed = true →
    decode (encode i ++ rest) = .command i rest

/-- The words of a decoded command are exactly its encoding, and it is well-formed: no word has two
meanings and no bit is ignored. -/
def Obligations.DecodedWordsAreTheEncoding : Prop :=
  ∀ (ws rest : List Word) (i : Instr), decode ws = .command i rest →
    i.wellFormed = true ∧ ws = encode i ++ rest

/-- 30_encoding.md R63: the opcode map. Of the 256 values of OPCODE exactly these twelve are legal, each
with this number of operand words; each command's header word is `0x000000XX` with XX its OPCODE; and no
other header word decodes to it. -/
def Obligations.OpcodeMapOfR63 : Prop :=
  (∀ o : Octet,
    (lookupOpcode o).map (fun r => r.count) =
      if o = 0x01 then some 0 else if o = 0x02 then some 2 else if o = 0x03 then some 1
      else if o = 0x04 then some 0 else if o = 0x10 then some 14 else if o = 0x11 then some 9
      else if o = 0x12 then some 13 else if o = 0x13 then some 9 else if o = 0x14 then some 8
      else if o = 0x15 then some 7 else if o = 0x16 then some 12 else if o = 0x17 then some 6
      else none) ∧
  (∀ i : Instr,
    (encode i).length = 1 + i.operands.length ∧
    (encode i).head? = some
      (match i with
        | .accClear => 0x00000001
        | .accAppend _ _ => 0x00000002
        | .accZeros _ => 0x00000003
        | .accFinalize => 0x00000004
        | .packD00C _ => 0x00000010
        | .packD00TC _ => 0x00000011
        | .packD10C _ => 0x00000012
        | .packD10P _ => 0x00000013
        | .packD10SI _ => 0x00000014
        | .packD10RA _ => 0x00000015
        | .packD10TC _ => 0x00000016
        | .packRar _ => 0x00000017)) ∧
  (∀ (ws rest : List Word) (i : Instr), decode ws = .command i rest →
    ws.head? = (encode i).head? ∧ i.operands.length + rest.length + 1 = ws.length)

/-- Words written out from 30_encoding.md (R63, R65, R70) decode to the commands they stand for. -/
def Obligations.WrittenOutWordsDecode : Prop :=
  decode [0x00000001] = .command .accClear [] ∧
  decode [0x00000002, 0x00000005, 0x00000003] = .command (.accAppend 5 3) [] ∧
  decode [0x00000003, 0x0000000F, 0x00000004] = .command (.accZeros 15) [0x00000004] ∧
  decode [0x00000011, 49, 1, 1, 511, 9, 17, 3, 2, 26] =
    .command (.packD00TC ⟨49, 1, 1, 511, 9, 17, 3, 2, 26⟩) [] ∧
  decode [0x00000014, 0x00000030, 0x000003E8, 0x00000003, 0x00000001, 0x00000009, 0x00000002,
      0x00000001, 0x00000027] =
    .command (.packD10SI ⟨48, 1000, 3, 1, 9, 2, 1, 39⟩) [] ∧
  decode [0x00000017, 0x00000001, 0x00001234, 0x00000005, 0x00000009, 0x00000003, 0x00000000] =
    .command (.packRar ⟨1, 0x1234, 5, 9, 3, 0⟩) [] ∧
  decode [0x00000000] = .illegalOpcode 0x00 [] ∧
  decode [0x80000018] = .reservedHeader 0x18 []

/-! ### The step -/

/-- A step at a state whose port decodes to a command runs that command, with its words consumed
(30_encoding.md R62). That further words stay behind at the port is the model's queue (log entry 3), and
that the command's words are gone also where it then faults is log entry 6. -/
def Obligations.StepRunsDecodedCommand : Prop :=
  ∀ (s : State) (i : Instr) (rest : List Word),
    s.fault = false → decode s.port = .command i rest → i.wellFormed = true →
    step s = exec i { s with port := rest }

/-- 30_encoding.md R62: what the block does with the words at its port while FAULT = 0. The header's
checks come first, in their order, and consume the header alone; a legal header waits for its n operand
words; then the command executes. The queue of words at the port and the named stop while waiting are the
model's form of R62 and R34 (log entries 3, 4 and 6). -/
def Obligations.HeaderDecodingOfR62 : Prop :=
  ∀ (s : State) (h : Word) (ws : List Word), s.fault = false → s.port = h :: ws →
    (h.extractLsb' 8 24 ≠ 0 →
      step s = .next (faulted 0x02 (h.extractLsb' 0 8) 0 { s with port := ws })) ∧
    (h.extractLsb' 8 24 = 0 →
      (lookupOpcode (h.extractLsb' 0 8) = none →
        step s = .next (faulted 0x01 (h.extractLsb' 0 8) 0 { s with port := ws })) ∧
      (∀ row, lookupOpcode (h.extractLsb' 0 8) = some row →
        (ws.length < row.count → step s = .fault .awaitingWords) ∧
        (row.count ≤ ws.length → ∃ i : Instr,
          i.wellFormed = true ∧ i.opcode = h.extractLsb' 0 8 ∧
          i.operands = (ws.take row.count).map (fun w => w.toNat) ∧
          step s = exec i { s with port := ws.drop row.count })))

/-- 70_reset_and_hazards.md R214: a command whose words have not all arrived is not executed; the block
waits, takes no fault, and the wait ends when the last word arrives (the command then executes) or at
reset. That `step` names the wait `awaitingWords` is the model's choice (log entry 4). -/
def Obligations.PartialCommandWaits : Prop :=
  ∀ (s : State) (i : Instr) (k : Nat), s.fault = false → i.wellFormed = true →
    k < (encode i).length → s.port = (encode i).take k →
    step s = .fault .awaitingWords ∧
    step (pushWords ((encode i).drop k) s) = exec i { s with port := [] } ∧
    assertReset s = State.reset

/-- The port runs its commands in the order of their arrival, one step each: the run from the words of
several commands has the outcome of executing the commands one after another, also where one of them
faults with others behind it, so that both stop (20_memory.md R51, 60_exceptions.md R184). That the port
may hold several whole commands is the model's choice (log entry 3), and so is the name of the stop (log
entry 4). -/
def Obligations.PortRunsCommandsInArrivalOrder : Prop :=
  ∀ (is : List Instr) (rest : List Word) (s : State), (∀ i ∈ is, i.wellFormed = true) →
    Sys2Proof.core.run is.length { s with port := is.flatMap encode ++ rest } =
      runCommands is { s with port := rest }

/-! ### Reset, halting and the host -/

/-- 10_state.md R36 and 70_reset_and_hazards.md R210: the reset value of every state element that R36 gives
one (the value of OUT, which it leaves open, is not stated: log entry 1), that reset gives this state from
any state, with FAULT = 1 or with words at the port, that the block then takes no step until a word comes,
and what every register then shows. -/
def Obligations.ResetValues : Prop :=
  (∀ s : State, react .resetInput s = .next State.reset) ∧
  (∀ t : State, step State.reset ≠ .next t) ∧
  State.reset.acc = [] ∧ State.reset.accFinal = false ∧ State.reset.outValid = false ∧
  State.reset.fault = false ∧ State.reset.faultCause = 0x00 ∧ State.reset.faultOpcode = 0x00 ∧
  State.reset.faultField = 0x00 ∧ State.reset.port = [] ∧
  (∀ k : Nat, (k < 3 ∨ 4 ≤ k ∧ k < 8) → readRegister (BitVec.ofNat 4 k) State.reset = .ok 0) ∧
  (∀ k : Nat, (k = 3 ∨ 8 ≤ k ∧ k < 12) →
    readRegister (BitVec.ofNat 4 k) State.reset = .error .outHasNoValue)

/-- 60_exceptions.md R184: while FAULT = 1 the block takes no step and accepts no word, the registers that
hold a value are still read, without side effect, and no event but reset leaves the state; after reset the
host may send commands again (70_reset_and_hazards.md R211). -/
def Obligations.FaultHaltsUntilReset : Prop :=
  ∀ s : State, s.fault = true →
    (∀ t, step s ≠ .next t) ∧
    (∀ w, react (.push w) s = .next s) ∧
    (∀ k : Nat, (k < 3 ∨ 4 ≤ k ∧ k < 8) →
      (∃ w, readRegister (BitVec.ofNat 4 k) s = .ok w) ∧
      react (.read (BitVec.ofNat 4 k)) s = .next s) ∧
    (∀ (e : Event) (t : State), e ≠ .resetInput → react e s = .next t → t = s) ∧
    (∃ t, react .resetInput s = .next t ∧ t.fault = false ∧ t.faultCause = 0x00 ∧
      ∀ w, ∃ u, react (.push w) t = .next u ∧ u.port = [w])

/-- 10_state.md R29: the bits of every register of the map. -/
def Obligations.RegisterMapOfR29 : Prop :=
  ∀ s : State,
    (∃ w, readRegister 0x0 s = .ok w ∧
      w.getLsbD 0 = s.fault ∧ w.getLsbD 1 = s.accFinal ∧ w.getLsbD 2 = s.outValid ∧
      w.extractLsb' 3 29 = 0) ∧
    (∃ w, readRegister 0x1 s = .ok w ∧
      w.extractLsb' 0 8 = s.faultCause ∧ w.extractLsb' 8 8 = s.faultOpcode ∧
      w.extractLsb' 16 8 = s.faultField ∧ w.extractLsb' 24 8 = 0) ∧
    (s.acc.length ≤ 128 → ∃ w, readRegister 0x2 s = .ok w ∧ w.toNat = s.acc.length) ∧
    (s.outValid = true → s.out.length ≤ 128 →
      ∃ w, readRegister 0x3 s = .ok w ∧ w.toNat = s.out.length) ∧
    (∀ k : Nat, k < 4 → ∃ w, readRegister (BitVec.ofNat 4 (4 + k)) s = .ok w ∧
      ∀ j : Nat, j < 32 → w.getLsbD j = payloadBit s.acc (32 * k + 31 - j)) ∧
    (∀ k : Nat, k < 4 → s.outValid = true →
      ∃ w, readRegister (BitVec.ofNat 4 (8 + k)) s = .ok w ∧
        ∀ j : Nat, j < 32 → w.getLsbD j = payloadBit s.out (32 * k + 31 - j))

/-- The four words of a payload of at most 128 bits, one after another, read as a number, are
`num(payload) · 2^(128 - |payload|)`: the payload is left-justified (10_state.md R29, 20_memory.md
R45). The spec marks this "derived: from rule R8 and rule R29". -/
def Obligations.PayloadWordsAreLeftJustified : Prop :=
  ∀ a : Payload, a.length ≤ 128 →
    (((payloadWord a 0).toNat * 2 ^ 32 + (payloadWord a 1).toNat) * 2 ^ 32
        + (payloadWord a 2).toNat) * 2 ^ 32 + (payloadWord a 3).toNat
      = num a * 2 ^ (128 - a.length)

/-- 10_state.md R30 and R31: which reads are refused. Index 0xC to 0xF names no register; OUT_LEN and
OUT_W0 to OUT_W3 hold no value while OUT_VALID = 0; the other registers always hold one. A read has no
side effect. -/
def Obligations.RefusedRegisterReads : Prop :=
  ∀ (s : State) (k : Nat), k < 16 →
    (12 ≤ k → react (.read (BitVec.ofNat 4 k)) s = .refused .unassignedRegister) ∧
    ((k = 3 ∨ 8 ≤ k ∧ k < 12) → s.outValid = false →
      react (.read (BitVec.ofNat 4 k)) s = .refused .outHasNoValue) ∧
    ((k < 3 ∨ 4 ≤ k ∧ k < 8) → react (.read (BitVec.ofNat 4 k)) s = .next s) ∧
    ((k = 3 ∨ 8 ≤ k ∧ k < 12) → s.outValid = true →
      react (.read (BitVec.ofNat 4 k)) s = .next s)

/-- No register shows the words at the port (10_state.md R34). While OUT_VALID = 0 the bits of OUT are
seen by no register, and no step depends on them: the step from the same state with other bits there ends
in the same way, with those bits at most carried along (10_state.md R31, 93_implementation_defined.md
I10). So the model's choice for OUT after reset (log entry 1) is never observed. -/
def Obligations.HiddenStateIsNeverObserved : Prop :=
  (∀ (s : State) (ws : List Word) (k : BitVec 4),
    readRegister k { s with port := ws } = readRegister k s) ∧
  ∀ (s : State) (o : Payload), s.outValid = false →
    (∀ k, readRegister k { s with out := o } = readRegister k s) ∧
    (∀ r, step s = .fault r → step { s with out := o } = .fault r) ∧
    (∀ t, step s = .next t →
      (t.outValid = true → step { s with out := o } = .next t) ∧
      (t.outValid = false → step { s with out := o } = .next { t with out := o }))

/-! ### The accumulator commands -/

/-- 40_accumulator.md R80: ACC.CLEAR. -/
def Obligations.AccClearOfR80 : Prop :=
  encode .accClear = [0x00000001] ∧
  ∀ s : State, exec .accClear s = .next { s with acc := [], accFinal := false }

/-- 40_accumulator.md R81: ACC.APPEND, its checks in their order and its effect. -/
def Obligations.AccAppendOfR81 : Prop :=
  ∀ (value width : Nat) (s : State),
    encode (.accAppend value width) =
      [0x00000002, BitVec.ofNat 32 value, BitVec.ofNat 32 width] ∧
    exec (.accAppend value width) s = .next (
      if s.accFinal = true then faulted 0x03 0x02 0 s
      else if width > 32 then faulted 0x04 0x02 2 s
      else if value ≥ 2 ^ width then faulted 0x05 0x02 1 s
      else if s.acc.length + width > 128 then faulted 0x06 0x02 2 s
      else { s with acc := s.acc ++ bits value width })

/-- 40_accumulator.md R82: ACC.ZEROS, its checks in their order and its effect. -/
def Obligations.AccZerosOfR82 : Prop :=
  ∀ (n : Nat) (s : State),
    encode (.accZeros n) = [0x00000003, BitVec.ofNat 32 n] ∧
    exec (.accZeros n) s = .next (
      if s.accFinal = true then faulted 0x03 0x03 0 s
      else if s.acc.length + n > 128 then faulted 0x06 0x03 1 s
      else { s with acc := s.acc ++ List.replicate n false })

/-- 40_accumulator.md R83: ACC.FINALIZE, its check and its effect. -/
def Obligations.AccFinalizeOfR83 : Prop :=
  encode .accFinalize = [0x00000004] ∧
  ∀ s : State,
    exec .accFinalize s = .next (
      if s.accFinal = true then faulted 0x03 0x04 0 s
      else { s with out := s.acc, outValid := true, accFinal := true })

/-- 20_memory.md R43, and the completion of the extending commands: with an open accumulator, a fitting
value and room, ACC.APPEND puts `v[w-1]` at position L and `v[0]` at position L + w - 1, ACC.ZEROS puts
zeros there, ACC.FINALIZE yields the accumulator; every earlier position keeps its bit and nothing else
changes. -/
def Obligations.AppendedBitsStandMsbFirst : Prop :=
  ∀ (s : State) (v w : Nat), s.accFinal = false → s.acc.length + w ≤ 128 →
    (w ≤ 32 → v < 2 ^ w → ∃ a : Payload,
      exec (.accAppend v w) s = .next { s with acc := a } ∧
      a.length = s.acc.length + w ∧
      (∀ p, p < s.acc.length → a[p]? = s.acc[p]?) ∧
      (∀ j, j < w → a[s.acc.length + j]? = some (v.testBit (w - 1 - j)))) ∧
    (∃ a : Payload,
      exec (.accZeros w) s = .next { s with acc := a } ∧
      a.length = s.acc.length + w ∧
      (∀ p, p < s.acc.length → a[p]? = s.acc[p]?) ∧
      (∀ j, j < w → a[s.acc.length + j]? = some false)) ∧
    exec .accFinalize s = .next { s with out := s.acc, outValid := true, accFinal := true }

/-- 40_accumulator.md R85: the sequence law. Fields given as (value, width) pairs: where all their
conditions hold, CLEAR, the APPENDs and FINALIZE end without fault with OUT the fields' bits one after
another; where a condition fails, the first APPEND that breaks one faults, with the fields before it in
ACC, and no command after it runs. The spec marks the law "derived: from rule R80, rule R81 and rule R83";
that no later command runs is R184, here by the model's named stop (log entry 4). -/
def Obligations.SequenceLawOfR85 : Prop :=
  ∀ (s : State) (fields : List (Nat × Nat)), s.fault = false →
    (∀ f ∈ fields, f.1 < 2 ^ f.2 ∧ f.2 ≤ 32) → (fields.map (fun f => f.2)).sum ≤ 128 →
    runCommands (.accClear :: fields.map (fun f => .accAppend f.1 f.2) ++ [.accFinalize]) s =
      .next (packed (fields.flatMap (fun f => bits f.1 f.2)) s) ∧
    (∀ (bad : Nat × Nat) (more : List (Nat × Nat)),
      ¬ (bad.1 < 2 ^ bad.2 ∧ bad.2 ≤ 32 ∧ (fields.map (fun f => f.2)).sum + bad.2 ≤ 128) →
      (∃ t, runCommands (.accClear :: (fields ++ [bad]).map (fun f => .accAppend f.1 f.2)) s =
          .next t ∧
        t.fault = true ∧ t.faultOpcode = 0x02 ∧ t.outValid = false ∧
        t.acc = fields.flatMap (fun f => bits f.1 f.2)) ∧
      runCommands
          (.accClear :: (fields ++ bad :: more).map (fun f => .accAppend f.1 f.2)
            ++ [.accFinalize]) s =
        .fault .halted)

/-- 40_accumulator.md R86: the field extraction law. A value appended when |ACC| = L, with whatever is
appended after it before the finalize, stands at positions L .. L + w - 1 of OUT. The spec marks the law
"derived: from rule R9 and rule R81". -/
def Obligations.FieldExtractionOfR86 : Prop :=
  ∀ (s t : State) (v w : Nat) (more : List Emission), s.fault = false →
    runCommands (.accAppend v w :: more.map Emission.command ++ [.accFinalize]) s = .next t →
    t.fault = false →
    t.outValid = true ∧ num (slice t.out s.acc.length w) = v

/-! ### The 0_0 packing commands -/

/-- 42_dci_0_0.md R120 and R124: how many bits the hopping offset takes. -/
def Obligations.HoppingOffsetWidths : Prop :=
  hopBitsOfCount 0 = 0 ∧ hopBitsOfCount 2 = 1 ∧ hopBitsOfCount 4 = 2 ∧
  ∀ n, 1 ≤ n → n ≤ 275 → hopBitsOfNRb n = if n ≤ 49 then 1 else 2

/-- 42_dci_0_0.md R121: the frequency field with and without hopping; with hopping it is the same as
emitting `HOP_OFFSET · 2^(W - h) + FREQ` in W bits, which the spec marks "derived: from rule R9". -/
def Obligations.FrequencyFieldSplitOfR121 : Prop :=
  ∀ hopFlag hopOffset freq width h : Nat,
    (hopFlag ≠ 1 → emitAll (freqField hopFlag hopOffset freq width h) = bits freq width) ∧
    (hopFlag = 1 → h ≤ width → hopOffset < 2 ^ h → freq < 2 ^ (width - h) →
      emitAll (freqField hopFlag hopOffset freq width h)
        = bits hopOffset h ++ bits freq (width - h) ∧
      emitAll (freqField hopFlag hopOffset freq width h)
        = bits (hopOffset * 2 ^ (width - h) + freq) width)

/-- 42_dci_0_0.md R122: PACK.D00C, every check in its order and the payload. -/
def Obligations.PackD00COfR122 : Prop :=
  ∀ (d : D00C) (s : State),
    let w := freqWidth d.nRb
    let h := if d.hopCount = 2 then 1 else if d.hopCount = 4 then 2 else 0
    let nat := 20 + w + d.sulPresent
    encode (.packD00C d) = 0x00000010 :: [d.nRb, d.hopCount, d.hopFlag, d.hopOffset, d.freq,
      d.time, d.mcs, d.ndi, d.rv, d.harq, d.tpc, d.sulPresent, d.sul, d.psize].map
        (BitVec.ofNat 32) ∧
    exec (.packD00C d) s = .next (
      if d.nRb < 1 ∨ d.nRb > 275 then faulted 0x09 0x10 1 s
      else if d.hopCount ≠ 0 ∧ d.hopCount ≠ 2 ∧ d.hopCount ≠ 4 then faulted 0x08 0x10 2 s
      else if d.hopFlag ≥ 2 then faulted 0x07 0x10 3 s
      else if d.hopFlag = 1 ∧ h = 0 then faulted 0x0B 0x10 3 s
      else if d.hopFlag = 1 ∧ w < h then faulted 0x0B 0x10 3 s
      else if d.hopOffset ≥ 2 ^ h then faulted 0x07 0x10 4 s
      else if d.freq > resourceValues d.nRb - 1 then faulted 0x0A 0x10 5 s
      else if d.hopFlag = 1 ∧ d.freq ≥ 2 ^ (w - h) then faulted 0x0A 0x10 5 s
      else if d.time ≥ 16 then faulted 0x07 0x10 6 s
      else if d.mcs ≥ 32 then faulted 0x07 0x10 7 s
      else if d.ndi ≥ 2 then faulted 0x07 0x10 8 s
      else if d.rv ≥ 4 then faulted 0x07 0x10 9 s
      else if d.harq ≥ 16 then faulted 0x07 0x10 10 s
      else if d.tpc ≥ 4 then faulted 0x07 0x10 11 s
      else if d.sulPresent ≥ 2 then faulted 0x07 0x10 12 s
      else if d.sul ≥ 2 then faulted 0x07 0x10 13 s
      else if d.psize < nat ∨ d.psize > 128 then faulted 0x0C 0x10 14 s
      else packed (bits 0 1
        ++ (if d.hopFlag = 1 then bits d.hopOffset h ++ bits d.freq (w - h) else bits d.freq w)
        ++ bits d.time 4 ++ bits d.hopFlag 1 ++ bits d.mcs 5 ++ bits d.ndi 1 ++ bits d.rv 2
        ++ bits d.harq 4 ++ bits d.tpc 2 ++ zeros (d.psize - nat)
        ++ (if d.sulPresent = 1 then bits d.sul 1 else [])) s)

/-- 42_dci_0_0.md R123: PACK.D00C with legal operands completes, and its payload's positions hold the
fields of the layout table, which the spec marks "derived: from rule R122". -/
def Obligations.PackD00CLayoutOfR123 : Prop :=
  ∀ (d : D00C) (s : State), d.Legal →
    let w := freqWidth d.nRb
    let h := hopBitsOfCount d.hopCount
    let pad := d.psize - (20 + w + d.sulPresent)
    ∃ p : Payload, exec (.packD00C d) s = .next (packed p s) ∧
      p.length = d.psize ∧
      num (slice p 0 1) = 0 ∧
      (d.hopFlag = 0 → num (slice p 1 w) = d.freq) ∧
      (d.hopFlag = 1 → num (slice p 1 h) = d.hopOffset ∧
        num (slice p (1 + h) (w - h)) = d.freq) ∧
      num (slice p (w + 1) 4) = d.time ∧
      num (slice p (w + 5) 1) = d.hopFlag ∧
      num (slice p (w + 6) 5) = d.mcs ∧
      num (slice p (w + 11) 1) = d.ndi ∧
      num (slice p (w + 12) 2) = d.rv ∧
      num (slice p (w + 14) 4) = d.harq ∧
      num (slice p (w + 18) 2) = d.tpc ∧
      slice p (w + 20) pad = zeros pad ∧
      (d.sulPresent = 1 → num (slice p (d.psize - 1) 1) = d.sul)

/-- 42_dci_0_0.md R125: PACK.D00TC, every check in its order and the payload. -/
def Obligations.PackD00TCOfR125 : Prop :=
  ∀ (d : D00TC) (s : State),
    let w := freqWidth d.nRb
    let h := if d.nRb < 50 then 1 else 2
    let nat := 15 + w
    encode (.packD00TC d) = 0x00000011 :: [d.nRb, d.hopFlag, d.hopOffset, d.freq, d.time, d.mcs,
      d.rv, d.tpc, d.psize].map (BitVec.ofNat 32) ∧
    exec (.packD00TC d) s = .next (
      if d.nRb < 1 ∨ d.nRb > 275 then faulted 0x09 0x11 1 s
      else if d.hopFlag ≥ 2 then faulted 0x07 0x11 2 s
      else if d.hopFlag = 1 ∧ w < h then faulted 0x0B 0x11 2 s
      else if d.hopOffset ≥ 2 ^ h then faulted 0x07 0x11 3 s
      else if d.freq > resourceValues d.nRb - 1 then faulted 0x0A 0x11 4 s
      else if d.hopFlag = 1 ∧ d.freq ≥ 2 ^ (w - h) then faulted 0x0A 0x11 4 s
      else if d.time ≥ 16 then faulted 0x07 0x11 5 s
      else if d.mcs ≥ 32 then faulted 0x07 0x11 6 s
      else if d.rv ≥ 4 then faulted 0x07 0x11 7 s
      else if d.tpc ≥ 4 then faulted 0x07 0x11 8 s
      else if d.psize < nat ∨ d.psize > 128 then faulted 0x0C 0x11 9 s
      else packed (bits 0 1
        ++ (if d.hopFlag = 1 then bits d.hopOffset h ++ bits d.freq (w - h) else bits d.freq w)
        ++ bits d.time 4 ++ bits d.hopFlag 1 ++ bits d.mcs 5 ++ bits d.rv 2 ++ bits d.tpc 2
        ++ zeros (d.psize - nat)) s)

/-- 42_dci_0_0.md R126: PACK.D00TC with legal operands completes, and its payload's positions hold the
fields of the layout table, which the spec marks "derived: from rule R125". -/
def Obligations.PackD00TCLayoutOfR126 : Prop :=
  ∀ (d : D00TC) (s : State), d.Legal →
    let w := freqWidth d.nRb
    let h := hopBitsOfNRb d.nRb
    let pad := d.psize - (15 + w)
    ∃ p : Payload, exec (.packD00TC d) s = .next (packed p s) ∧
      p.length = d.psize ∧
      num (slice p 0 1) = 0 ∧
      (d.hopFlag = 0 → num (slice p 1 w) = d.freq) ∧
      (d.hopFlag = 1 → num (slice p 1 h) = d.hopOffset ∧
        num (slice p (1 + h) (w - h)) = d.freq) ∧
      num (slice p (w + 1) 4) = d.time ∧
      num (slice p (w + 5) 1) = d.hopFlag ∧
      num (slice p (w + 6) 5) = d.mcs ∧
      num (slice p (w + 11) 2) = d.rv ∧
      num (slice p (w + 13) 2) = d.tpc ∧
      slice p (w + 15) pad = zeros pad

/-! ### The 1_0 packing commands -/

/-- 43_dci_1_0.md R140: PACK.D10C, every check in its order and the payload. -/
def Obligations.PackD10COfR140 : Prop :=
  ∀ (d : D10C) (s : State),
    let w := freqWidth d.nRb
    let nat := 28 + w
    encode (.packD10C d) = 0x00000012 :: [d.nRb, d.freq, d.time, d.vrb, d.mcs, d.ndi, d.rv, d.harq,
      d.dai, d.tpc, d.pri, d.k1, d.psize].map (BitVec.ofNat 32) ∧
    exec (.packD10C d) s = .next (
      if d.nRb < 1 ∨ d.nRb > 275 then faulted 0x09 0x12 1 s
      else if d.freq > resourceValues d.nRb - 1 then faulted 0x0A 0x12 2 s
      else if d.time ≥ 16 then faulted 0x07 0x12 3 s
      else if d.vrb ≥ 2 then faulted 0x07 0x12 4 s
      else if d.mcs ≥ 32 then faulted 0x07 0x12 5 s
      else if d.ndi ≥ 2 then faulted 0x07 0x12 6 s
      else if d.rv ≥ 4 then faulted 0x07 0x12 7 s
      else if d.harq ≥ 16 then faulted 0x07 0x12 8 s
      else if d.dai ≥ 4 then faulted 0x07 0x12 9 s
      else if d.tpc ≥ 4 then faulted 0x07 0x12 10 s
      else if d.pri ≥ 8 then faulted 0x07 0x12 11 s
      else if d.k1 ≥ 8 then faulted 0x07 0x12 12 s
      else if d.psize < nat ∨ d.psize > 128 then faulted 0x0C 0x12 13 s
      else packed (bits 1 1 ++ bits d.freq w ++ bits d.time 4 ++ bits d.vrb 1 ++ bits d.mcs 5
        ++ bits d.ndi 1 ++ bits d.rv 2 ++ bits d.harq 4 ++ bits d.dai 2 ++ bits d.tpc 2
        ++ bits d.pri 3 ++ bits d.k1 3 ++ zeros (d.psize - nat)) s)

/-- 43_dci_1_0.md R141: PACK.D10C with legal operands completes, and its payload's positions hold the
fields of the layout table, which the spec marks "derived: from rule R140". -/
def Obligations.PackD10CLayoutOfR141 : Prop :=
  ∀ (d : D10C) (s : State), d.Legal →
    let w := freqWidth d.nRb
    let pad := d.psize - (28 + w)
    ∃ p : Payload, exec (.packD10C d) s = .next (packed p s) ∧
      p.length = d.psize ∧
      num (slice p 0 1) = 1 ∧
      num (slice p 1 w) = d.freq ∧
      num (slice p (w + 1) 4) = d.time ∧
      num (slice p (w + 5) 1) = d.vrb ∧
      num (slice p (w + 6) 5) = d.mcs ∧
      num (slice p (w + 11) 1) = d.ndi ∧
      num (slice p (w + 12) 2) = d.rv ∧
      num (slice p (w + 14) 4) = d.harq ∧
      num (slice p (w + 18) 2) = d.dai ∧
      num (slice p (w + 20) 2) = d.tpc ∧
      num (slice p (w + 22) 3) = d.pri ∧
      num (slice p (w + 25) 3) = d.k1 ∧
      slice p (w + 28) pad = zeros pad

/-- 43_dci_1_0.md R143: PACK.D10P, every check in its order and the payload. -/
def Obligations.PackD10POfR143 : Prop :=
  ∀ (d : D10P) (s : State),
    let w := freqWidth d.nRb
    let nat := 28 + w
    encode (.packD10P d) = 0x00000013 :: [d.nRb, d.smi, d.sm, d.freq, d.time, d.vrb, d.mcs, d.tbs,
      d.psize].map (BitVec.ofNat 32) ∧
    exec (.packD10P d) s = .next (
      if d.nRb < 1 ∨ d.nRb > 275 then faulted 0x09 0x13 1 s
      else if d.smi > 3 then faulted 0x07 0x13 2 s
      else if d.smi = 0 then faulted 0x08 0x13 2 s
      else if d.sm ≥ 256 then faulted 0x07 0x13 3 s
      else if d.freq > resourceValues d.nRb - 1 then faulted 0x0A 0x13 4 s
      else if d.time ≥ 16 then faulted 0x07 0x13 5 s
      else if d.vrb ≥ 2 then faulted 0x07 0x13 6 s
      else if d.mcs ≥ 32 then faulted 0x07 0x13 7 s
      else if d.tbs > 3 then faulted 0x07 0x13 8 s
      else if d.tbs = 3 then faulted 0x08 0x13 8 s
      else if d.psize < nat ∨ d.psize > 128 then faulted 0x0C 0x13 9 s
      else packed (bits d.smi 2
        ++ (if d.smi = 2 ∨ d.smi = 3 then bits d.sm 8 else zeros 8)
        ++ (if d.smi = 1 ∨ d.smi = 3 then
              bits d.freq w ++ bits d.time 4 ++ bits d.vrb 1 ++ bits d.mcs 5 ++ bits d.tbs 2
            else zeros (w + 12))
        ++ zeros 6 ++ zeros (d.psize - nat)) s)

/-- 43_dci_1_0.md R144: PACK.D10P with legal operands completes, and its payload's positions hold the
fields of the layout table, zeros where SMI gates a field (R142). The spec marks the table "derived: from
rule R143". -/
def Obligations.PackD10PLayoutOfR144 : Prop :=
  ∀ (d : D10P) (s : State), d.Legal →
    let w := freqWidth d.nRb
    let pad := d.psize - (28 + w)
    let sched := d.smi = 1 ∨ d.smi = 3
    ∃ p : Payload, exec (.packD10P d) s = .next (packed p s) ∧
      p.length = d.psize ∧
      num (slice p 0 2) = d.smi ∧
      ((d.smi = 2 ∨ d.smi = 3) → num (slice p 2 8) = d.sm) ∧
      (d.smi = 1 → slice p 2 8 = zeros 8) ∧
      (sched →
        num (slice p 10 w) = d.freq ∧
        num (slice p (w + 10) 4) = d.time ∧
        num (slice p (w + 14) 1) = d.vrb ∧
        num (slice p (w + 15) 5) = d.mcs ∧
        num (slice p (w + 20) 2) = d.tbs) ∧
      (d.smi = 2 → slice p 10 (w + 12) = zeros (w + 12)) ∧
      slice p (w + 22) 6 = zeros 6 ∧
      slice p (w + 28) pad = zeros pad

/-- 43_dci_1_0.md R145: PACK.D10SI, every check in its order and the payload. -/
def Obligations.PackD10SIOfR145 : Prop :=
  ∀ (d : D10SI) (s : State),
    let w := freqWidth d.nRb
    let nat := 28 + w
    encode (.packD10SI d) = 0x00000014 :: [d.nRb, d.freq, d.time, d.vrb, d.mcs, d.rv, d.sii,
      d.psize].map (BitVec.ofNat 32) ∧
    exec (.packD10SI d) s = .next (
      if d.nRb < 1 ∨ d.nRb > 275 then faulted 0x09 0x14 1 s
      else if d.freq > resourceValues d.nRb - 1 then faulted 0x0A 0x14 2 s
      else if d.time ≥ 16 then faulted 0x07 0x14 3 s
      else if d.vrb ≥ 2 then faulted 0x07 0x14 4 s
      else if d.mcs ≥ 32 then faulted 0x07 0x14 5 s
      else if d.rv ≥ 4 then faulted 0x07 0x14 6 s
      else if d.sii ≥ 2 then faulted 0x07 0x14 7 s
      else if d.psize < nat ∨ d.psize > 128 then faulted 0x0C 0x14 8 s
      else packed (bits d.freq w ++ bits d.time 4 ++ bits d.vrb 1 ++ bits d.mcs 5 ++ bits d.rv 2
        ++ bits d.sii 1 ++ zeros 15 ++ zeros (d.psize - nat)) s)

/-- 43_dci_1_0.md R146: PACK.D10SI with legal operands completes, and its payload's positions hold the
fields of the layout table, which the spec marks "derived: from rule R145". -/
def Obligations.PackD10SILayoutOfR146 : Prop :=
  ∀ (d : D10SI) (s : State), d.Legal →
    let w := freqWidth d.nRb
    let pad := d.psize - (28 + w)
    ∃ p : Payload, exec (.packD10SI d) s = .next (packed p s) ∧
      p.length = d.psize ∧
      num (slice p 0 w) = d.freq ∧
      num (slice p w 4) = d.time ∧
      num (slice p (w + 4) 1) = d.vrb ∧
      num (slice p (w + 5) 5) = d.mcs ∧
      num (slice p (w + 10) 2) = d.rv ∧
      num (slice p (w + 12) 1) = d.sii ∧
      slice p (w + 13) 15 = zeros 15 ∧
      slice p (w + 28) pad = zeros pad

/-- 43_dci_1_0.md R147: PACK.D10RA, every check in its order and the payload. -/
def Obligations.PackD10RAOfR147 : Prop :=
  ∀ (d : D10RA) (s : State),
    let w := freqWidth d.nRb
    let nat := 28 + w
    encode (.packD10RA d) = 0x00000015 :: [d.nRb, d.freq, d.time, d.vrb, d.mcs, d.tbs,
      d.psize].map (BitVec.ofNat 32) ∧
    exec (.packD10RA d) s = .next (
      if d.nRb < 1 ∨ d.nRb > 275 then faulted 0x09 0x15 1 s
      else if d.freq > resourceValues d.nRb - 1 then faulted 0x0A 0x15 2 s
      else if d.time ≥ 16 then faulted 0x07 0x15 3 s
      else if d.vrb ≥ 2 then faulted 0x07 0x15 4 s
      else if d.mcs ≥ 32 then faulted 0x07 0x15 5 s
      else if d.tbs > 3 then faulted 0x07 0x15 6 s
      else if d.tbs = 3 then faulted 0x08 0x15 6 s
      else if d.psize < nat ∨ d.psize > 128 then faulted 0x0C 0x15 7 s
      else packed (bits d.freq w ++ bits d.time 4 ++ bits d.vrb 1 ++ bits d.mcs 5 ++ bits d.tbs 2
        ++ zeros 16 ++ zeros (d.psize - nat)) s)

/-- 43_dci_1_0.md R148: PACK.D10RA with legal operands completes, and its payload's positions hold the
fields of the layout table, which the spec marks "derived: from rule R147". -/
def Obligations.PackD10RALayoutOfR148 : Prop :=
  ∀ (d : D10RA) (s : State), d.Legal →
    let w := freqWidth d.nRb
    let pad := d.psize - (28 + w)
    ∃ p : Payload, exec (.packD10RA d) s = .next (packed p s) ∧
      p.length = d.psize ∧
      num (slice p 0 w) = d.freq ∧
      num (slice p w 4) = d.time ∧
      num (slice p (w + 4) 1) = d.vrb ∧
      num (slice p (w + 5) 5) = d.mcs ∧
      num (slice p (w + 10) 2) = d.tbs ∧
      slice p (w + 12) 16 = zeros 16 ∧
      slice p (w + 28) pad = zeros pad

/-- 43_dci_1_0.md R149: PACK.D10TC, every check in its order and the payload. -/
def Obligations.PackD10TCOfR149 : Prop :=
  ∀ (d : D10TC) (s : State),
    let w := freqWidth d.nRb
    let nat := 26 + w
    encode (.packD10TC d) = 0x00000016 :: [d.nRb, d.freq, d.time, d.vrb, d.mcs, d.ndi, d.rv, d.harq,
      d.tpc, d.pri, d.k1, d.psize].map (BitVec.ofNat 32) ∧
    exec (.packD10TC d) s = .next (
      if d.nRb < 1 ∨ d.nRb > 275 then faulted 0x09 0x16 1 s
      else if d.freq > resourceValues d.nRb - 1 then faulted 0x0A 0x16 2 s
      else if d.time ≥ 16 then faulted 0x07 0x16 3 s
      else if d.vrb ≥ 2 then faulted 0x07 0x16 4 s
      else if d.mcs ≥ 32 then faulted 0x07 0x16 5 s
      else if d.ndi ≥ 2 then faulted 0x07 0x16 6 s
      else if d.rv ≥ 4 then faulted 0x07 0x16 7 s
      else if d.harq ≥ 16 then faulted 0x07 0x16 8 s
      else if d.tpc ≥ 4 then faulted 0x07 0x16 9 s
      else if d.pri ≥ 8 then faulted 0x07 0x16 10 s
      else if d.k1 ≥ 8 then faulted 0x07 0x16 11 s
      else if d.psize < nat ∨ d.psize > 128 then faulted 0x0C 0x16 12 s
      else packed (bits 1 1 ++ bits d.freq w ++ bits d.time 4 ++ bits d.vrb 1 ++ bits d.mcs 5
        ++ bits d.ndi 1 ++ bits d.rv 2 ++ bits d.harq 4 ++ bits d.tpc 2 ++ bits d.pri 3
        ++ bits d.k1 3 ++ zeros (d.psize - nat)) s)

/-- 43_dci_1_0.md R150: PACK.D10TC with legal operands completes, and its payload's positions hold the
fields of the layout table, which the spec marks "derived: from rule R149". -/
def Obligations.PackD10TCLayoutOfR150 : Prop :=
  ∀ (d : D10TC) (s : State), d.Legal →
    let w := freqWidth d.nRb
    let pad := d.psize - (26 + w)
    ∃ p : Payload, exec (.packD10TC d) s = .next (packed p s) ∧
      p.length = d.psize ∧
      num (slice p 0 1) = 1 ∧
      num (slice p 1 w) = d.freq ∧
      num (slice p (w + 1) 4) = d.time ∧
      num (slice p (w + 5) 1) = d.vrb ∧
      num (slice p (w + 6) 5) = d.mcs ∧
      num (slice p (w + 11) 1) = d.ndi ∧
      num (slice p (w + 12) 2) = d.rv ∧
      num (slice p (w + 14) 4) = d.harq ∧
      num (slice p (w + 18) 2) = d.tpc ∧
      num (slice p (w + 20) 3) = d.pri ∧
      num (slice p (w + 23) 3) = d.k1 ∧
      slice p (w + 26) pad = zeros pad

/-- 43_dci_1_0.md R149 and R150: the operands of PACK.D10TC, given with any DAI to PACK.D10C with two more
bits of PSIZE, make the same payload but for the two positions W + 18 and W + 19. -/
def Obligations.D10TCIsD10CWithoutDai : Prop :=
  ∀ (d : D10TC) (dai : Nat) (s : State), d.Legal → dai < 4 → d.psize + 2 ≤ 128 →
    ∃ p q : Payload,
      exec (.packD10C ⟨d.nRb, d.freq, d.time, d.vrb, d.mcs, d.ndi, d.rv, d.harq, dai, d.tpc, d.pri,
        d.k1, d.psize + 2⟩) s = .next (packed p s) ∧
      exec (.packD10TC d) s = .next (packed q s) ∧
      q = p.take (freqWidth d.nRb + 18) ++ p.drop (freqWidth d.nRb + 20)

/-! ### The RAR UL grant -/

/-- 44_rar.md R170: PACK.RAR, every check in its order and the 27-bit payload. -/
def Obligations.PackRarOfR170 : Prop :=
  ∀ (d : RarGrant) (s : State),
    encode (.packRar d) = 0x00000017 :: [d.hopFlag, d.freq, d.time, d.mcs, d.tpc, d.csi].map
      (BitVec.ofNat 32) ∧
    exec (.packRar d) s = .next (
      if d.hopFlag ≥ 2 then faulted 0x07 0x17 1 s
      else if d.freq ≥ 2 ^ 14 then faulted 0x07 0x17 2 s
      else if d.time ≥ 16 then faulted 0x07 0x17 3 s
      else if d.mcs ≥ 16 then faulted 0x07 0x17 4 s
      else if d.tpc ≥ 8 then faulted 0x07 0x17 5 s
      else if d.csi ≥ 2 then faulted 0x07 0x17 6 s
      else packed (bits d.hopFlag 1 ++ bits d.freq 14 ++ bits d.time 4 ++ bits d.mcs 4
        ++ bits d.tpc 3 ++ bits d.csi 1) s)

/-- 44_rar.md R171: PACK.RAR with legal operands completes, and the positions of its 27 bits hold the
fields of the layout table, which the spec marks "derived: from rule R170". -/
def Obligations.PackRarLayoutOfR171 : Prop :=
  ∀ (d : RarGrant) (s : State), d.Legal →
    ∃ p : Payload, exec (.packRar d) s = .next (packed p s) ∧
      p.length = 27 ∧
      num (slice p 0 1) = d.hopFlag ∧
      num (slice p 1 14) = d.freq ∧
      num (slice p 15 4) = d.time ∧
      num (slice p 19 4) = d.mcs ∧
      num (slice p 23 3) = d.tpc ∧
      num (slice p 26 1) = d.csi

/-! ### What every packing command keeps -/

/-- A packing command ends without fault exactly when every operand is in its legal range
(30_encoding.md R65), and then it commits its layout, in any state. -/
def Obligations.PackersCompleteExactlyOnLegalOperands : Prop :=
  ∀ (i : Instr) (l : List Emission), i.packLayout = some l →
    (i.PackLegal → ∀ s : State, exec i s = .next (packed (emitAll l) s)) ∧
    (¬ i.PackLegal → ∀ s : State, ∃ cause field : Octet,
      exec i s = .next (faulted cause i.opcode field s))

/-- 41_packer_common.md R112: a packing command with no fault yields exactly PSIZE bits, 27 for
PACK.RAR. The spec marks the law "derived: from rule R104, rule R110 and the variant rules". -/
def Obligations.PackedLengthOfR112 : Prop :=
  ∀ (i : Instr) (n : Nat) (s t : State), i.payloadSize = some n → s.fault = false →
    exec i s = .next t → t.fault = false → t.out.length = n

/-- 41_packer_common.md R115: a packing command's result depends only on its operands. From any two
states it either commits the same payload or takes the same fault. The spec marks the rule "derived: from
rule R101 and rule R102". -/
def Obligations.PackersIgnoreTheState : Prop :=
  ∀ (i : Instr) (l : List Emission), i.packLayout = some l →
    (∃ p : Payload, ∀ s : State, exec i s = .next (packed p s)) ∨
    (∃ cause opcode field : Octet, ∀ s : State, exec i s = .next (faulted cause opcode field s))

/-- 41_packer_common.md R116: a packing command with no fault leaves the same state as ACC.CLEAR, one
accumulator command per line of its layout, and ACC.FINALIZE; every emitted value fits its width, at most
16. The spec marks the rule "derived: from rule R85 and rule R100". -/
def Obligations.PackersEqualAccumulatorSequences : Prop :=
  ∀ (i : Instr) (l : List Emission) (s : State), i.packLayout = some l → i.PackLegal →
    s.fault = false →
    (∃ t, exec i s = .next t ∧ t.fault = false ∧
      runCommands (.accClear :: l.map Emission.command ++ [.accFinalize]) s = .next t) ∧
    (∀ v w, Emission.emit v w ∈ l → v < 2 ^ w ∧ w ≤ 16)

/-- The operands that gating leaves unused do not reach the payload (41_packer_common.md R109,
43_dci_1_0.md R142): the scheduling fields of PACK.D10P with SMI = 2, its SM with SMI = 1, HOP_OFFSET of the
0_0 commands with HOP_FLAG = 0, and SUL of PACK.D00C with SUL_PRESENT = 0, each at any legal value. -/
def Obligations.GatedOperandsAreNotEmitted : Prop :=
  ∀ s : State,
    (∀ d : D10P, d.Legal → d.smi = 2 →
      exec (.packD10P d) s =
        exec (.packD10P { d with freq := 0, time := 0, vrb := 0, mcs := 0, tbs := 0 }) s) ∧
    (∀ d : D10P, d.Legal → d.smi = 1 →
      exec (.packD10P d) s = exec (.packD10P { d with sm := 0 }) s) ∧
    (∀ d : D00C, d.Legal → d.hopFlag = 0 →
      exec (.packD00C d) s = exec (.packD00C { d with hopOffset := 0 }) s) ∧
    (∀ d : D00C, d.Legal → d.sulPresent = 0 →
      exec (.packD00C d) s = exec (.packD00C { d with sul := 0 }) s) ∧
    (∀ d : D00TC, d.Legal → d.hopFlag = 0 →
      exec (.packD00TC d) s = exec (.packD00TC { d with hopOffset := 0 }) s)

/-! ### The whole machine -/

/-- Every command answers a next state from every state, and the command's rule never touches the port.
With FAULT = 0 before it, the command is atomic (20_memory.md R49): either no fault is taken and the fault
record is unchanged, or only the fault record and OUT_VALID change, and the record names the command. That
a command has its effect also from a state with FAULT = 1 holds of `exec` alone, which `step` never asks
there (log entry 10). -/
def Obligations.CommandsAreTotalAndAtomic : Prop :=
  ∀ (i : Instr) (s : State), ∃ t : State, exec i s = .next t ∧ t.port = s.port ∧
    (s.fault = false →
      (t.fault = false ∧ t.faultCause = s.faultCause ∧ t.faultOpcode = s.faultOpcode ∧
        t.faultField = s.faultField) ∨
      ∃ cause field : Octet, t = faulted cause i.opcode field s)

/-- 60_exceptions.md R183: a step that takes a fault. The record holds the header's bits 7:0, OUT_VALID
drops, and ACC, ACC_FINAL and the bits of OUT keep the values they had before the command. The cause and
the operand index are in the statements of the commands and of R62. -/
def Obligations.FaultEntryOfR183 : Prop :=
  ∀ (s t : State) (h : Word) (ws : List Word), s.port = h :: ws → step s = .next t →
    t.fault = true →
    s.fault = false ∧ t.faultCause ≠ 0x00 ∧ t.faultOpcode = h.extractLsb' 0 8 ∧
    t.outValid = false ∧ t.acc = s.acc ∧ t.accFinal = s.accFinal ∧ t.out = s.out

/-- 60_exceptions.md R181: which cause is recorded with which opcode and operand index, over every step
that takes a fault. When each is taken is said in the statements of the commands and of R62. -/
def Obligations.FaultCausesOfR181 : Prop :=
  ∀ s t : State, step s = .next t → t.fault = true →
    (t.faultCause = 0x01 ∧ lookupOpcode t.faultOpcode = none ∧ t.faultField = 0) ∨
    (t.faultCause = 0x02 ∧ t.faultField = 0) ∨
    (t.faultCause = 0x03 ∧ t.faultOpcode ∈ [(0x02 : Octet), 0x03, 0x04] ∧ t.faultField = 0) ∨
    (t.faultCause = 0x04 ∧ t.faultOpcode = 0x02 ∧ t.faultField = 2) ∨
    (t.faultCause = 0x05 ∧ t.faultOpcode = 0x02 ∧ t.faultField = 1) ∨
    (t.faultCause = 0x06 ∧ (t.faultOpcode, t.faultField) ∈ [((0x02, 2) : Octet × Octet), (0x03, 1)]) ∨
    (t.faultCause = 0x07 ∧
      (t.faultOpcode = 0x10 ∧ t.faultField ∈ [(3 : Octet), 4, 6, 7, 8, 9, 10, 11, 12, 13] ∨
       t.faultOpcode = 0x11 ∧ t.faultField ∈ [(2 : Octet), 3, 5, 6, 7, 8] ∨
       t.faultOpcode = 0x12 ∧ t.faultField ∈ [(3 : Octet), 4, 5, 6, 7, 8, 9, 10, 11, 12] ∨
       t.faultOpcode = 0x13 ∧ t.faultField ∈ [(2 : Octet), 3, 5, 6, 7, 8] ∨
       t.faultOpcode = 0x14 ∧ t.faultField ∈ [(3 : Octet), 4, 5, 6, 7] ∨
       t.faultOpcode = 0x15 ∧ t.faultField ∈ [(3 : Octet), 4, 5, 6] ∨
       t.faultOpcode = 0x16 ∧ t.faultField ∈ [(3 : Octet), 4, 5, 6, 7, 8, 9, 10, 11] ∨
       t.faultOpcode = 0x17 ∧ t.faultField ∈ [(1 : Octet), 2, 3, 4, 5, 6])) ∨
    (t.faultCause = 0x08 ∧
      (t.faultOpcode, t.faultField) ∈
        [((0x10, 2) : Octet × Octet), (0x13, 2), (0x13, 8), (0x15, 6)]) ∨
    (t.faultCause = 0x09 ∧
      t.faultOpcode ∈ [(0x10 : Octet), 0x11, 0x12, 0x13, 0x14, 0x15, 0x16] ∧ t.faultField = 1) ∨
    (t.faultCause = 0x0A ∧
      (t.faultOpcode, t.faultField) ∈
        [((0x10, 5) : Octet × Octet), (0x11, 4), (0x12, 2), (0x13, 4), (0x14, 2), (0x15, 2),
          (0x16, 2)]) ∨
    (t.faultCause = 0x0B ∧
      (t.faultOpcode, t.faultField) ∈ [((0x10, 3) : Octet × Octet), (0x11, 2)]) ∨
    (t.faultCause = 0x0C ∧
      (t.faultOpcode, t.faultField) ∈
        [((0x10, 14) : Octet × Octet), (0x11, 9), (0x12, 13), (0x13, 9), (0x14, 8), (0x15, 7),
          (0x16, 12)])

/-- 10_state.md R27: what changes OUT and OUT_VALID, over every step. Only ACC.FINALIZE and the packing
commands set OUT_VALID or write OUT, and OUT is then the accumulator; only a fault clears OUT_VALID. -/
def Obligations.OutChangesOnlyAsR27Says : Prop :=
  ∀ s t : State, step s = .next t →
    (t.out ≠ s.out ∨ (s.outValid = false ∧ t.outValid = true) →
      t.fault = false ∧ t.outValid = true ∧ t.out = t.acc ∧ t.accFinal = true ∧
      ∃ i rest, decode s.port = .command i rest ∧ (i = .accFinalize ∨ i.packLayout ≠ none)) ∧
    (s.outValid = true → t.outValid = false → t.fault = true)

/-- 10_state.md R35: the invariants that every step keeps, and that a packing command with no fault
leaves ACC = OUT, ACC_FINAL = 1 and OUT_VALID = 1. The spec marks them "derived: from rule R24, rule R27
and the command rules". -/
def Obligations.EveryStepKeepsTheInvariantsOfR35 : Prop :=
  ∀ s t : State, s.Inv → step s = .next t →
    t.Inv ∧
    (∀ i rest l, decode s.port = .command i rest → i.packLayout = some l → t.fault = false →
      t.acc = t.out ∧ t.accFinal = true ∧ t.outValid = true)

/-- A final accumulator equals OUT, and the fault record holds no reserved code and no index past 14: every
step keeps both (10_state.md R26, R27, 60_exceptions.md R181). -/
def Obligations.EveryStepKeepsFinalEqualsOut : Prop :=
  ∀ s t : State, s.FinalInv → s.RecordInv → step s = .next t → t.FinalInv ∧ t.RecordInv

/-- Every event of the block or of the host keeps every invariant. -/
def Obligations.EveryEventKeepsTheInvariants : Prop :=
  ∀ (e : Event) (s t : State), s.Inv → s.FinalInv → s.RecordInv → react e s = .next t →
    t.Inv ∧ t.FinalInv ∧ t.RecordInv

/-- The reset state has every invariant. -/
def Obligations.ResetHasTheInvariants : Prop :=
  State.reset.Inv ∧ State.reset.FinalInv ∧ State.reset.RecordInv

/-- The host's result of a command (70_reset_and_hazards.md R216, R220): after a legal packing command the
payload is delivered, and after a fault nothing is. -/
def Obligations.DeliveredPayload : Prop :=
  ∀ (s t : State) (i : Instr) (rest : List Word), s.fault = false →
    decode s.port = .command i rest → step s = .next t →
    (∀ l, i.packLayout = some l → i.PackLegal → deliveredPayload t = some (emitAll l)) ∧
    (t.fault = true → deliveredPayload t = none)
end

