-- ==== Sys2Proof/Laws/Bits.lean ====
section
/-! SUPPORT. The small lemmas of the payload arithmetic: lengths, and how the definitions unfold. -/

namespace Sys2Proof.Machine

@[simp] theorem bits_zero (v : Nat) : bits v 0 = [] := rfl

theorem bits_succ (v w : Nat) : bits v (w + 1) = v.testBit w :: bits v w := rfl

@[simp] theorem bits_length (v w : Nat) : (bits v w).length = w := by
  induction w with
  | zero => rfl
  | succ w ih => simp [bits_succ, ih]

@[simp] theorem zeros_length (n : Nat) : (zeros n).length = n := by simp [zeros]

@[simp] theorem zeros_zero : zeros 0 = [] := rfl

@[simp] theorem num_nil : num [] = 0 := rfl

theorem num_concat (a : Payload) (b : Bool) : num (a ++ [b]) = 2 * num a + b.toNat := by
  simp [num]

theorem foldl_num (b : Payload) :
    ∀ n : Nat, b.foldl (fun n b => 2 * n + b.toNat) n = n * 2 ^ b.length + num b := by
  unfold num
  induction b with
  | nil => simp
  | cons x b ih =>
    intro n
    simp only [List.foldl_cons]
    rw [ih, ih (2 * 0 + x.toNat), List.length_cons, pow_succ]
    ring

/-- The number of two payloads one after another: the first is shifted past the second. -/
theorem num_append (a b : Payload) : num (a ++ b) = num a * 2 ^ b.length + num b := by
  rw [← foldl_num]; simp [num]

theorem num_cons (x : Bool) (b : Payload) : num (x :: b) = x.toNat * 2 ^ b.length + num b := by
  rw [← List.singleton_append, num_append]; simp [num]

theorem num_lt (a : Payload) : num a < 2 ^ a.length := by
  induction a with
  | nil => simp
  | cons x a ih => rw [num_cons, List.length_cons, pow_succ]; cases x <;> simp <;> omega

theorem slice_length (a : Payload) (p w : Nat) :
    (slice a p w).length = min w (a.length - p) := by
  simp [slice]

/-- A slice that begins where the left part ends is a slice of the right part. -/
theorem slice_append_right (a b : Payload) (w : Nat) :
    slice (a ++ b) a.length w = b.take w := by
  simp [slice]

end Sys2Proof.Machine
end

