-- ==== Sys2Proof/Laws/Decode.lean ====
section
/-! SUPPORT. What a lookup in the opcode map and a decoded command can be, said once. -/

namespace Sys2Proof

/-- The row that a lookup finds is in the map and has the OPCODE looked up. -/
theorem lookupOpcode_mem {o : Octet} {row : OpcodeRow} (h : lookupOpcode o = some row) :
    row ∈ opcodeMap ∧ row.opcode = o := by
  unfold lookupOpcode at h
  exact ⟨List.mem_of_find?_eq_some h, by simpa using List.find?_some h⟩

/-- All that words which decode to a command can be: a header without reserved bits, whose OPCODE has a
row, and at least as many words behind it as the row counts. -/
theorem decode_command {ws rest : List Word} {i : Instr} (h : decode ws = .command i rest) :
    ∃ hd tl row, ws = hd :: tl ∧ headerReserved hd = 0 ∧
      lookupOpcode (headerOpcode hd) = some row ∧ row.count ≤ tl.length ∧
      i = row.build (operandWord tl) ∧ rest = tl.drop row.count := by
  cases ws with
  | nil => simp [decode] at h
  | cons hd tl =>
    simp only [decode] at h
    split at h
    · cases h
    · split at h
      · cases h
      · split at h
        · cases h
        · rename_i hres _ row hrow hlen
          cases h
          exact ⟨hd, tl, row, rfl, by simpa using hres, hrow, by omega, rfl, rfl⟩

end Sys2Proof
end

