-- ==== Sys2Proof/Laws/State.lean ====
section
/-! SUPPORT. One lemma per field per update of the state, so that no later proof unfolds a record
update. -/

namespace Sys2Proof.Machine

/-! ### takeFault -/

section takeFault

variable (c : Cause) (o : Octet) (k : Nat) (s : State)

@[simp] theorem takeFault_acc : (takeFault c o k s).acc = s.acc := rfl
@[simp] theorem takeFault_accFinal : (takeFault c o k s).accFinal = s.accFinal := rfl
@[simp] theorem takeFault_out : (takeFault c o k s).out = s.out := rfl
@[simp] theorem takeFault_outValid : (takeFault c o k s).outValid = false := rfl
@[simp] theorem takeFault_fault : (takeFault c o k s).fault = true := rfl
@[simp] theorem takeFault_faultCause : (takeFault c o k s).faultCause = c.code := rfl
@[simp] theorem takeFault_faultOpcode : (takeFault c o k s).faultOpcode = o := rfl
@[simp] theorem takeFault_faultField : (takeFault c o k s).faultField = BitVec.ofNat 8 k := rfl
@[simp] theorem takeFault_port : (takeFault c o k s).port = s.port := rfl

end takeFault

/-! ### The accumulator's operations -/

section accumulator

variable (a : Payload) (s : State)

@[simp] theorem clearAcc_acc : (clearAcc s).acc = [] := rfl
@[simp] theorem clearAcc_accFinal : (clearAcc s).accFinal = false := rfl
@[simp] theorem clearAcc_out : (clearAcc s).out = s.out := rfl
@[simp] theorem clearAcc_outValid : (clearAcc s).outValid = s.outValid := rfl
@[simp] theorem clearAcc_fault : (clearAcc s).fault = s.fault := rfl
@[simp] theorem clearAcc_faultCause : (clearAcc s).faultCause = s.faultCause := rfl
@[simp] theorem clearAcc_faultOpcode : (clearAcc s).faultOpcode = s.faultOpcode := rfl
@[simp] theorem clearAcc_faultField : (clearAcc s).faultField = s.faultField := rfl
@[simp] theorem clearAcc_port : (clearAcc s).port = s.port := rfl

@[simp] theorem extendAcc_acc : (extendAcc a s).acc = s.acc ++ a := rfl
@[simp] theorem extendAcc_accFinal : (extendAcc a s).accFinal = s.accFinal := rfl
@[simp] theorem extendAcc_out : (extendAcc a s).out = s.out := rfl
@[simp] theorem extendAcc_outValid : (extendAcc a s).outValid = s.outValid := rfl
@[simp] theorem extendAcc_fault : (extendAcc a s).fault = s.fault := rfl
@[simp] theorem extendAcc_faultCause : (extendAcc a s).faultCause = s.faultCause := rfl
@[simp] theorem extendAcc_faultOpcode : (extendAcc a s).faultOpcode = s.faultOpcode := rfl
@[simp] theorem extendAcc_faultField : (extendAcc a s).faultField = s.faultField := rfl
@[simp] theorem extendAcc_port : (extendAcc a s).port = s.port := rfl

@[simp] theorem finalizeAcc_acc : (finalizeAcc s).acc = s.acc := rfl
@[simp] theorem finalizeAcc_accFinal : (finalizeAcc s).accFinal = true := rfl
@[simp] theorem finalizeAcc_out : (finalizeAcc s).out = s.acc := rfl
@[simp] theorem finalizeAcc_outValid : (finalizeAcc s).outValid = true := rfl
@[simp] theorem finalizeAcc_fault : (finalizeAcc s).fault = s.fault := rfl
@[simp] theorem finalizeAcc_faultCause : (finalizeAcc s).faultCause = s.faultCause := rfl
@[simp] theorem finalizeAcc_faultOpcode : (finalizeAcc s).faultOpcode = s.faultOpcode := rfl
@[simp] theorem finalizeAcc_faultField : (finalizeAcc s).faultField = s.faultField := rfl
@[simp] theorem finalizeAcc_port : (finalizeAcc s).port = s.port := rfl

end accumulator

/-! ### commit -/

section commit

variable (p : Payload) (s : State)

@[simp] theorem commit_acc : (commit p s).acc = p := rfl
@[simp] theorem commit_accFinal : (commit p s).accFinal = true := rfl
@[simp] theorem commit_out : (commit p s).out = p := rfl
@[simp] theorem commit_outValid : (commit p s).outValid = true := rfl
@[simp] theorem commit_fault : (commit p s).fault = s.fault := rfl
@[simp] theorem commit_faultCause : (commit p s).faultCause = s.faultCause := rfl
@[simp] theorem commit_faultOpcode : (commit p s).faultOpcode = s.faultOpcode := rfl
@[simp] theorem commit_faultField : (commit p s).faultField = s.faultField := rfl
@[simp] theorem commit_port : (commit p s).port = s.port := rfl

end commit

/-! ### pushWord: it writes the port alone -/

section pushWord

variable (w : Word) (s : State)

theorem pushWord_eq : pushWord w s = { s with port := if s.fault then s.port else s.port ++ [w] } := by
  unfold pushWord; split <;> rfl

@[simp] theorem pushWord_acc : (pushWord w s).acc = s.acc := by rw [pushWord_eq]
@[simp] theorem pushWord_accFinal : (pushWord w s).accFinal = s.accFinal := by rw [pushWord_eq]
@[simp] theorem pushWord_out : (pushWord w s).out = s.out := by rw [pushWord_eq]
@[simp] theorem pushWord_outValid : (pushWord w s).outValid = s.outValid := by rw [pushWord_eq]
@[simp] theorem pushWord_fault : (pushWord w s).fault = s.fault := by rw [pushWord_eq]
@[simp] theorem pushWord_faultCause : (pushWord w s).faultCause = s.faultCause := by
  rw [pushWord_eq]
@[simp] theorem pushWord_faultOpcode : (pushWord w s).faultOpcode = s.faultOpcode := by
  rw [pushWord_eq]
@[simp] theorem pushWord_faultField : (pushWord w s).faultField = s.faultField := by
  rw [pushWord_eq]

end pushWord

end Sys2Proof.Machine
end

