-- ==== Sys2Proof/Laws/Ops.lean ====
section
/-! SUPPORT. What each shared operation can do, said once: a first failing check, a checked command, a
packing command, a fetch and a step. Later proofs cite these and do not unfold the operations. -/

namespace Sys2Proof.Machine

/-! ### Checks -/

@[simp] theorem raiseIf_cause (p : Prop) [Decidable p] (c : Cause) (k : Nat) :
    (raiseIf p c k).cause = c := rfl

@[simp] theorem raiseIf_field (p : Prop) [Decidable p] (c : Cause) (k : Nat) :
    (raiseIf p c k).field = k := rfl

@[simp] theorem raiseIf_fails (p : Prop) [Decidable p] (c : Cause) (k : Nat) :
    (raiseIf p c k).fails = true ↔ p := by simp [raiseIf]

@[simp] theorem firstFailure_nil : firstFailure [] = none := rfl

/-- The checks are tried in the order written. -/
theorem firstFailure_cons (c : Check) (cs : List Check) :
    firstFailure (c :: cs) = if c.fails = true then some c else firstFailure cs := by
  cases h : c.fails <;> simp [firstFailure, h]

/-- No check fails exactly where each one passes. -/
theorem firstFailure_eq_none (cs : List Check) :
    firstFailure cs = none ↔ ∀ c ∈ cs, c.fails = false := by
  simp [firstFailure]

/-- The check that is reported fails and is one of those written. -/
theorem firstFailure_eq_some {cs : List Check} {c : Check} (h : firstFailure cs = some c) :
    c ∈ cs ∧ c.fails = true := by
  unfold firstFailure at h
  exact ⟨List.mem_of_find?_eq_some h, List.find?_some h⟩

/-! ### Checked commands -/

section runChecked

variable {o : Octet} {cs : List Check} {f : State → State} {s t : State}

/-- A checked command with a failing check takes the fault of the first one. -/
theorem runChecked_of_some {c : Check} (h : firstFailure cs = some c) :
    runChecked o cs f s = .next (takeFault c.cause o c.field s) := by
  simp [runChecked, h]

/-- A checked command without a failing check has its effect. -/
theorem runChecked_of_none (h : firstFailure cs = none) : runChecked o cs f s = .next (f s) := by
  simp [runChecked, h]

/-- All that a checked command can do: a fault of its first failing check, or its effect. -/
theorem runChecked_cases (h : runChecked o cs f s = .next t) :
    (∃ c, firstFailure cs = some c ∧ t = takeFault c.cause o c.field s) ∨
    (firstFailure cs = none ∧ t = f s) := by
  cases hc : firstFailure cs with
  | none => rw [runChecked_of_none hc] at h; cases h; exact .inr ⟨rfl, rfl⟩
  | some c => rw [runChecked_of_some hc] at h; cases h; exact .inl ⟨c, rfl, rfl⟩

/-- The checks tried one by one. -/
theorem runChecked_cons (c : Check) :
    runChecked o (c :: cs) f s =
      if c.fails = true then .next (takeFault c.cause o c.field s) else runChecked o cs f s := by
  cases hc : c.fails <;> simp [runChecked, firstFailure_cons, hc]

/-- One line of a rule's checks: where its condition q holds the command ends with that fault, and where
it does not the checks go on, knowing that q fails. -/
theorem runChecked_raiseIf {p q : Prop} [Decidable p] [Decidable q] {c : Cause} {k : Nat} {u v : State}
    (hpq : p ↔ q) (hu : takeFault c o k s = u) (hv : ¬ q → runChecked o cs f s = .next v) :
    runChecked o (raiseIf p c k :: cs) f s = .next (if q then u else v) := by
  rw [runChecked_cons]
  by_cases hq : q
  · simp [hq, hpq.mpr hq, hu]
  · simp [hq, mt hpq.mp hq, hv hq]

@[simp] theorem runChecked_nil : runChecked o [] f s = .next (f s) := rfl

end runChecked

/-! ### Packing commands -/

/-- All that a packing command can do: a fault of its first failing check, or the commit of its
layout. -/
theorem runPacker_cases {o : Octet} {cs : List Check} {l : List Emission} {s t : State}
    (h : runPacker o cs l s = .next t) :
    (∃ c, firstFailure cs = some c ∧ t = takeFault c.cause o c.field s) ∨
    (firstFailure cs = none ∧ t = commit (emitAll l) s) :=
  runChecked_cases h

@[simp] theorem emitAll_nil : emitAll [] = [] := rfl

@[simp] theorem emitAll_cons (e : Emission) (l : List Emission) :
    emitAll (e :: l) = e.payload ++ emitAll l := rfl

@[simp] theorem emitAll_append (l m : List Emission) : emitAll (l ++ m) = emitAll l ++ emitAll m := by
  simp [emitAll]

@[simp] theorem emit_payload (v w : Nat) : (Emission.emit v w).payload = bits v w := rfl

@[simp] theorem emitz_payload (n : Nat) : (Emission.emitz n).payload = zeros n := rfl

/-! ### Fetch and step -/

/-- All that a fetch can find. -/
theorem fetch_cases (s : State) :
    (s.fault = true ∧ fetch s = .halted) ∨
    (s.fault = false ∧ decode s.port = .incomplete ∧ fetch s = .awaiting) ∨
    (∃ o rest, s.fault = false ∧ decode s.port = .reservedHeader o rest ∧
      fetch s = .faulted (takeFault .reservedHeader o 0 { s with port := rest })) ∨
    (∃ o rest, s.fault = false ∧ decode s.port = .illegalOpcode o rest ∧
      fetch s = .faulted (takeFault .illegalOpcode o 0 { s with port := rest })) ∨
    (∃ i rest, s.fault = false ∧ decode s.port = .command i rest ∧
      fetch s = .command i { s with port := rest }) := by
  unfold fetch
  cases s.fault <;> cases decode s.port <;> simp

/-- All that a step can do where it answers a next state: the fault entry of an illegal header, or the
execution of the command at the port. -/
theorem step_cases {s t : State} (h : step s = .next t) :
    s.fault = false ∧
    ((∃ o rest, decode s.port = .reservedHeader o rest ∧
        t = takeFault .reservedHeader o 0 { s with port := rest }) ∨
     (∃ o rest, decode s.port = .illegalOpcode o rest ∧
        t = takeFault .illegalOpcode o 0 { s with port := rest }) ∨
     (∃ i rest, decode s.port = .command i rest ∧ exec i { s with port := rest } = .next t)) := by
  unfold step at h
  rcases fetch_cases s with ⟨_, hf⟩ | ⟨_, _, hf⟩ | ⟨o, rest, h0, hd, hf⟩ | ⟨o, rest, h0, hd, hf⟩ |
    ⟨i, rest, h0, hd, hf⟩ <;> simp only [hf] at h
  · cases h
  · cases h
  · cases h; exact ⟨h0, .inl ⟨o, rest, hd, rfl⟩⟩
  · cases h; exact ⟨h0, .inr (.inl ⟨o, rest, hd, rfl⟩)⟩
  · exact ⟨h0, .inr (.inr ⟨i, rest, hd, h⟩)⟩

/-- A command's checks and effect, in one form for every command. -/
theorem exec_eq_runChecked (i : Instr) (s : State) :
    ∃ cs f, exec i s = runChecked i.opcode cs f s ∧
      ((∃ a, ∀ u, f u = extendAcc a u) ∨ (∀ u, f u = clearAcc u) ∨ (∀ u, f u = finalizeAcc u) ∨
        (∃ p, ∀ u, f u = commit p u)) := by
  cases i with
  | accClear => exact ⟨[], clearAcc, rfl, .inr (.inl fun _ => rfl)⟩
  | accAppend v w => exact ⟨_, _, rfl, .inl ⟨_, fun _ => rfl⟩⟩
  | accZeros n => exact ⟨_, _, rfl, .inl ⟨_, fun _ => rfl⟩⟩
  | accFinalize => exact ⟨_, _, rfl, .inr (.inr (.inl fun _ => rfl))⟩
  | packD00C d => exact ⟨_, _, rfl, .inr (.inr (.inr ⟨_, fun _ => rfl⟩))⟩
  | packD00TC d => exact ⟨_, _, rfl, .inr (.inr (.inr ⟨_, fun _ => rfl⟩))⟩
  | packD10C d => exact ⟨_, _, rfl, .inr (.inr (.inr ⟨_, fun _ => rfl⟩))⟩
  | packD10P d => exact ⟨_, _, rfl, .inr (.inr (.inr ⟨_, fun _ => rfl⟩))⟩
  | packD10SI d => exact ⟨_, _, rfl, .inr (.inr (.inr ⟨_, fun _ => rfl⟩))⟩
  | packD10RA d => exact ⟨_, _, rfl, .inr (.inr (.inr ⟨_, fun _ => rfl⟩))⟩
  | packD10TC d => exact ⟨_, _, rfl, .inr (.inr (.inr ⟨_, fun _ => rfl⟩))⟩
  | packRar d => exact ⟨_, _, rfl, .inr (.inr (.inr ⟨_, fun _ => rfl⟩))⟩

end Sys2Proof.Machine
end

