-- ==== Sys2Proof/Laws/PerInstr.lean ====
section
/-! SUPPORT. Facts about every command as syntax, one lemma per constructor: its OPCODE has a row in the
opcode map, and the row's count is the number of its operands (30_encoding.md R60, R63, R65). -/

namespace Sys2Proof.Laws.OperandCount

/-- The command's OPCODE is in the opcode map, with as many operand words as the command has operands. -/
def Statement (i : Instr) : Prop :=
  (lookupOpcode i.opcode).map (fun r => r.count) = some i.operands.length

theorem accClear : Statement .accClear := rfl
theorem accAppend (value width : Nat) : Statement (.accAppend value width) := rfl
theorem accZeros (n : Nat) : Statement (.accZeros n) := rfl
theorem accFinalize : Statement .accFinalize := rfl
theorem packD00C (d : D00C) : Statement (.packD00C d) := rfl
theorem packD00TC (d : D00TC) : Statement (.packD00TC d) := rfl
theorem packD10C (d : D10C) : Statement (.packD10C d) := rfl
theorem packD10P (d : D10P) : Statement (.packD10P d) := rfl
theorem packD10SI (d : D10SI) : Statement (.packD10SI d) := rfl
theorem packD10RA (d : D10RA) : Statement (.packD10RA d) := rfl
theorem packD10TC (d : D10TC) : Statement (.packD10TC d) := rfl
theorem packRar (d : RarGrant) : Statement (.packRar d) := rfl

end Sys2Proof.Laws.OperandCount
end

