-- ==== Sys2Proof/Laws/System.lean ====
section
/-! SUPPORT. What a register read and a sequence of commands can do, said once. -/

namespace Sys2Proof.Machine

/-- All that a register read can answer, by its index (10_state.md R29 to R31). -/
theorem readRegister_cases (k : Nat) (hk : k < 16) (s : State) :
    (k = 0 ∧ readRegister (BitVec.ofNat 4 k) s = .ok (statusWord s)) ∨
    (k = 1 ∧ readRegister (BitVec.ofNat 4 k) s = .ok (faultInfoWord s)) ∨
    (k = 2 ∧ readRegister (BitVec.ofNat 4 k) s = .ok (lengthWord s.acc)) ∨
    (k = 3 ∧ readRegister (BitVec.ofNat 4 k) s = outRegister s (lengthWord s.out)) ∨
    (4 ≤ k ∧ k < 8 ∧ readRegister (BitVec.ofNat 4 k) s = .ok (payloadWord s.acc (k - 4))) ∨
    (8 ≤ k ∧ k < 12 ∧
      readRegister (BitVec.ofNat 4 k) s = outRegister s (payloadWord s.out (k - 8))) ∨
    (12 ≤ k ∧ readRegister (BitVec.ofNat 4 k) s = .error .unassignedRegister) := by
  interval_cases k <;> simp [readRegister]

/-- A sequence goes on with the state its first command leaves. -/
theorem runCommands_cons {i : Instr} {is : List Instr} {s t : State} (hs : s.fault = false)
    (h : exec i s = .next t) : runCommands (i :: is) s = runCommands is t := by
  simp [runCommands, hs, h]

end Sys2Proof.Machine
end

