-- ==== Sys2Proof/Tests/Slice0.lean ====
section
/-! SUPPORT. Tests. Expected results are taken from spec/95_test_vectors.md (V-… and P-… names) or written
out from the rule named. First the smoke tests of the well-formedness checks, then decoding, then single
steps, then for every obligation with hypotheses one witness that meets them, at boundary values. -/

namespace Sys2Proof.Tests

open Sys2Proof Sys2Proof.Machine

/-! ### Well-formedness: an ill-formed term for each check is refused -/

theorem test_wf_accAppend_value : (Instr.accAppend (2 ^ 32) 0).wellFormed = false := by decide
theorem test_wf_accAppend_width : (Instr.accAppend 0 (2 ^ 32)).wellFormed = false := by decide
theorem test_wf_accZeros : (Instr.accZeros (2 ^ 32)).wellFormed = false := by decide
theorem test_wf_packD00C :
    (Instr.packD00C ⟨2 ^ 32, 0, 0, 0, 0, 0, 0, 0, 0, 0, 0, 0, 0, 0⟩).wellFormed = false ∧
    (Instr.packD00C ⟨0, 0, 0, 0, 0, 0, 0, 0, 0, 0, 0, 0, 0, 2 ^ 32⟩).wellFormed = false := by decide
theorem test_wf_packD00TC :
    (Instr.packD00TC ⟨2 ^ 32, 0, 0, 0, 0, 0, 0, 0, 0⟩).wellFormed = false ∧
    (Instr.packD00TC ⟨0, 0, 0, 0, 0, 0, 0, 0, 2 ^ 32⟩).wellFormed = false := by decide
theorem test_wf_packD10C :
    (Instr.packD10C ⟨2 ^ 32, 0, 0, 0, 0, 0, 0, 0, 0, 0, 0, 0, 0⟩).wellFormed = false ∧
    (Instr.packD10C ⟨0, 0, 0, 0, 0, 0, 0, 0, 0, 0, 0, 0, 2 ^ 32⟩).wellFormed = false := by decide
theorem test_wf_packD10P :
    (Instr.packD10P ⟨2 ^ 32, 0, 0, 0, 0, 0, 0, 0, 0⟩).wellFormed = false ∧
    (Instr.packD10P ⟨0, 0, 0, 0, 0, 0, 0, 0, 2 ^ 32⟩).wellFormed = false := by decide
theorem test_wf_packD10SI :
    (Instr.packD10SI ⟨2 ^ 32, 0, 0, 0, 0, 0, 0, 0⟩).wellFormed = false ∧
    (Instr.packD10SI ⟨0, 0, 0, 0, 0, 0, 0, 2 ^ 32⟩).wellFormed = false := by decide
theorem test_wf_packD10RA :
    (Instr.packD10RA ⟨2 ^ 32, 0, 0, 0, 0, 0, 0⟩).wellFormed = false ∧
    (Instr.packD10RA ⟨0, 0, 0, 0, 0, 0, 2 ^ 32⟩).wellFormed = false := by decide
theorem test_wf_packD10TC :
    (Instr.packD10TC ⟨2 ^ 32, 0, 0, 0, 0, 0, 0, 0, 0, 0, 0, 0⟩).wellFormed = false ∧
    (Instr.packD10TC ⟨0, 0, 0, 0, 0, 0, 0, 0, 0, 0, 0, 2 ^ 32⟩).wellFormed = false := by decide
theorem test_wf_packRar :
    (Instr.packRar ⟨2 ^ 32, 0, 0, 0, 0, 0⟩).wellFormed = false ∧
    (Instr.packRar ⟨0, 0, 0, 0, 0, 2 ^ 32⟩).wellFormed = false := by decide
theorem test_wf_largest_operands :
    (Instr.accAppend (2 ^ 32 - 1) (2 ^ 32 - 1)).wellFormed = true ∧
    (Instr.packRar ⟨2 ^ 32 - 1, 0, 0, 0, 0, 2 ^ 32 - 1⟩).wellFormed = true := by decide

/-! ### Decoding: words written out from 30_encoding.md R63 and R65 -/

/-- 95_test_vectors.md P1. -/
theorem test_decode_accClear : decode [0x00000001] = .command .accClear [] := by decide
/-- 95_test_vectors.md P1. -/
theorem test_decode_accAppend :
    decode [0x00000002, 0x00000005, 0x00000003, 0x00000004] =
      .command (.accAppend 5 3) [0x00000004] := by decide
/-- 95_test_vectors.md P2. -/
theorem test_decode_accZeros :
    decode [0x00000003, 0x0000000F] = .command (.accZeros 15) [] := by decide
/-- 95_test_vectors.md P1. -/
theorem test_decode_accFinalize : decode [0x00000004] = .command .accFinalize [] := by decide
/-- 95_test_vectors.md V-00C-2: fourteen operands, no two neighbours alike but SUL_PRESENT and SUL. -/
theorem test_decode_packD00C :
    decode [0x00000010, 50, 4, 1, 2, 300, 5, 10, 1, 2, 7, 3, 1, 1, 39] =
      .command (.packD00C
        { nRb := 50, hopCount := 4, hopFlag := 1, hopOffset := 2, freq := 300, time := 5, mcs := 10,
          ndi := 1, rv := 2, harq := 7, tpc := 3, sulPresent := 1, sul := 1, psize := 39 }) [] := by
  decide
/-- 95_test_vectors.md V-00TC-1. -/
theorem test_decode_packD00TC :
    decode [0x00000011, 49, 1, 1, 511, 9, 17, 3, 2, 26] =
      .command (.packD00TC
        { nRb := 49, hopFlag := 1, hopOffset := 1, freq := 511, time := 9, mcs := 17, rv := 3,
          tpc := 2, psize := 26 }) [] := by decide
/-- 95_test_vectors.md V-10C-1. -/
theorem test_decode_packD10C :
    decode [0x00000012, 48, 1175, 4, 1, 27, 1, 2, 9, 3, 1, 5, 7, 39] =
      .command (.packD10C
        { nRb := 48, freq := 1175, time := 4, vrb := 1, mcs := 27, ndi := 1, rv := 2, harq := 9,
          dai := 3, tpc := 1, pri := 5, k1 := 7, psize := 39 }) [] := by decide
/-- 95_test_vectors.md V-P-3. -/
theorem test_decode_packD10P :
    decode [0x00000013, 48, 3, 0xA5, 1000, 3, 1, 9, 2, 39] =
      .command (.packD10P
        { nRb := 48, smi := 3, sm := 0xA5, freq := 1000, time := 3, vrb := 1, mcs := 9, tbs := 2,
          psize := 39 }) [] := by decide
/-- 30_encoding.md R70. -/
theorem test_decode_packD10SI :
    decode [0x00000014, 0x00000030, 0x000003E8, 0x00000003, 0x00000001, 0x00000009, 0x00000002,
        0x00000001, 0x00000027] =
      .command (.packD10SI
        { nRb := 48, freq := 1000, time := 3, vrb := 1, mcs := 9, rv := 2, sii := 1,
          psize := 39 }) [] := by decide
/-- 95_test_vectors.md V-RA-1. -/
theorem test_decode_packD10RA :
    decode [0x00000015, 24, 299, 2, 0, 5, 1, 37] =
      .command (.packD10RA
        { nRb := 24, freq := 299, time := 2, vrb := 0, mcs := 5, tbs := 1, psize := 37 }) [] := by
  decide
/-- 95_test_vectors.md V-10TC-1. -/
theorem test_decode_packD10TC :
    decode [0x00000016, 48, 1175, 4, 1, 27, 1, 2, 9, 1, 5, 7, 37] =
      .command (.packD10TC
        { nRb := 48, freq := 1175, time := 4, vrb := 1, mcs := 27, ndi := 1, rv := 2, harq := 9,
          tpc := 1, pri := 5, k1 := 7, psize := 37 }) [] := by decide
/-- 95_test_vectors.md V-RAR-3. -/
theorem test_decode_packRar :
    decode [0x00000017, 1, 0x1234, 5, 9, 3, 0] =
      .command (.packRar
        { hopFlag := 1, freq := 0x1234, time := 5, mcs := 9, tpc := 3, csi := 0 }) [] := by decide
/-- The neighbours of the legal opcodes (R66), the checks' order, and a partial command (V-HDR). -/
theorem test_decode_illegal_headers :
    decode [0x00000000] = .illegalOpcode 0x00 [] ∧ decode [0x00000005] = .illegalOpcode 0x05 [] ∧
    decode [0x0000000F] = .illegalOpcode 0x0F [] ∧ decode [0x00000018] = .illegalOpcode 0x18 [] ∧
    decode [0x000000FF, 7] = .illegalOpcode 0xFF [7] ∧
    decode [0x00000102, 7] = .reservedHeader 0x02 [7] ∧
    decode [0x80000018] = .reservedHeader 0x18 [] ∧
    decode [0x00000014, 48, 1000, 3] = .incomplete := by decide

/-- No two rows of the opcode map share an OPCODE (R63). -/
theorem test_opcodes_distinct : (opcodeMap.map fun r => r.opcode).Nodup := by decide

/-- Bits numbered from the first word's least significant bit: header 0x02, operands 5 and 3. -/
theorem test_decodeTableWord_operands :
    decodeTableWord 96 (0x02 + 5 * 2 ^ 32 + 3 * 2 ^ 64) = some (.accAppend 5 3) := by decide
/-- With the header's 32 bits alone every operand word is 0. -/
theorem test_decodeTableWord_header_only :
    decodeTableWord 32 0x17 = some (.packRar ⟨0, 0, 0, 0, 0, 0⟩) ∧ decodeTableWord 32 0x18 = none := by
  decide
/-- The words of the command, and no more, wait at the port. -/
theorem test_withFetchWord_port :
    (State.reset.withFetchWord 96 (0x02 + 5 * 2 ^ 32 + 3 * 2 ^ 64)).port = [2, 5, 3] ∧
    (State.reset.withFetchWord 32 0x17).port = [0x17, 0, 0, 0, 0, 0, 0] := by decide
/-- The next step runs that command: V-ACC-1. -/
theorem test_withFetchWord_step :
    step (State.reset.withFetchWord 96 (0x02 + 5 * 2 ^ 32 + 3 * 2 ^ 64)) =
      .next { State.reset with acc := [true, false, true] } := by rfl

/-! ### Single steps, read through the registers -/

/-- One step with these words at the port. -/
def sent (ws : List Word) (s : State) : Option State :=
  match step { s with port := ws } with
  | .next t => some t
  | .fault _ => none
  | .refused _ => none

/-- The value a register of the map shows, none where the read is refused. -/
def shows (k : Nat) (o : Option State) : Option Nat :=
  match o with
  | none => none
  | some s =>
    match readRegister (BitVec.ofNat 4 k) s with
    | .ok w => some w.toNat
    | .error _ => none

/-- STATUS, FAULT_INFO, OUT_LEN, OUT_W0 and OUT_W1 (10_state.md R29). -/
def outView (o : Option State) : List (Option Nat) := [0, 1, 3, 8, 9].map fun k => shows k o

/-- STATUS, FAULT_INFO, ACC_LEN and ACC_W0 (10_state.md R29). -/
def accView (o : Option State) : List (Option Nat) := [0, 1, 2, 4].map fun k => shows k o

/-- V-ACC-17. -/
theorem test_accClear_keeps_out :
    shows 0 (sent [1] { State.reset with acc := [true], accFinal := true, out := [true], outValid := true })
      = some 4 := by decide
/-- V-ACC-14. -/
theorem test_accAppend_msb_first :
    accView (sent [2, 6, 4] { State.reset with acc := [true] }) =
      [some 0, some 0, some 5, some 0xB0000000] := by decide
/-- V-ACC-7: the width is checked before the value. -/
theorem test_accAppend_width_fault :
    accView (sent [2, 16, 33] State.reset) = [some 1, some 0x00020204, some 0, some 0] := by decide
/-- V-ACC-15. -/
theorem test_accZeros_appends :
    accView (sent [3, 3] { State.reset with acc := [true, true] }) =
      [some 0, some 0, some 5, some 0xC0000000] := by decide
/-- V-ACC-11: no wrap at the largest operand. -/
theorem test_accZeros_overflow :
    accView (sent [3, 0xFFFFFFFF] State.reset) = [some 1, some 0x00010306, some 0, some 0] := by decide
/-- V-ACC-16. -/
theorem test_accFinalize_yields :
    outView (sent [4] { State.reset with acc := [true, false, true, true, false] }) =
      [some 6, some 0, some 5, some 0xB0000000, some 0] := by decide
/-- R83: a second finalize faults, and OUT may not be read. -/
theorem test_accFinalize_twice :
    outView (sent [4] { State.reset with accFinal := true, outValid := true }) =
      [some 3, some 0x00000403, none, none, none] := by decide
/-- V-00C-2: hopping, padding before the UL/SUL indicator. -/
theorem test_packD00C_padding_before_sul :
    outView (sent [0x10, 50, 4, 1, 2, 300, 5, 10, 1, 2, 7, 3, 1, 1, 39] State.reset) =
      [some 6, some 0, some 39, some 0x52C5AB3E, some 0x02000000] := by decide
/-- V-00C-11: SUL is checked while absent. -/
theorem test_packD00C_sul_checked :
    shows 1 (sent [0x10, 50, 0, 0, 0, 0, 0, 0, 0, 0, 0, 0, 0, 2, 31] State.reset) =
      some 0x000D1007 := by decide
/-- V-00TC-1: one offset bit at N_RB = 49. -/
theorem test_packD00TC_one_hop_bit :
    outView (sent [0x11, 49, 1, 1, 511, 9, 17, 3, 2, 26] State.reset) =
      [some 6, some 0, some 26, some 0x5FF9C780, some 0] := by decide
/-- V-00TC-2: two offset bits at N_RB = 50. -/
theorem test_packD00TC_two_hop_bits :
    outView (sent [0x11, 50, 1, 3, 511, 9, 17, 3, 2, 26] State.reset) =
      [some 6, some 0, some 26, some 0x7FF9C780, some 0] := by decide
/-- V-10C-1. -/
theorem test_packD10C_fields :
    outView (sent [0x12, 48, 1175, 4, 1, 27, 1, 2, 9, 3, 1, 5, 7, 39] State.reset) =
      [some 6, some 0, some 39, some 0xC974EF4E, some 0xDE000000] := by decide
/-- V-10C-3. -/
theorem test_packD10C_harq_range :
    shows 1 (sent [0x12, 48, 0, 0, 0, 0, 0, 0, 16, 0, 0, 0, 0, 39] State.reset) =
      some 0x00081207 := by decide
/-- V-P-3. -/
theorem test_packD10P_both :
    outView (sent [0x13, 48, 3, 0xA5, 1000, 3, 1, 9, 2, 39] State.reset) =
      [some 6, some 0, some 39, some 0xE95F41D3, some 0] := by decide
/-- V-P-4: the scheduling operands are not emitted. -/
theorem test_packD10P_short_message_only :
    outView (sent [0x13, 48, 2, 0xA5, 1000, 3, 1, 9, 2, 39] State.reset) =
      [some 6, some 0, some 39, some 0xA9400000, some 0] := by decide
/-- V-SI-1. -/
theorem test_packD10SI_fields :
    outView (sent [0x14, 48, 1000, 3, 1, 9, 2, 1, 39] State.reset) =
      [some 6, some 0, some 39, some 0x7D074D00, some 0] := by decide
/-- V-SI-7: with N_RB = 1 only FREQ = 0 is legal. -/
theorem test_packD10SI_freq_range :
    shows 1 (sent [0x14, 1, 1, 0, 0, 0, 0, 0, 28] State.reset) = some 0x0002140A := by decide
/-- V-RA-1. -/
theorem test_packD10RA_fields :
    outView (sent [0x15, 24, 299, 2, 0, 5, 1, 37] State.reset) =
      [some 6, some 0, some 37, some 0x9590A800, some 0] := by decide
/-- V-RA-4: the first bad operand in operand order is reported. -/
theorem test_packD10RA_first_wins :
    shows 1 (sent [0x15, 24, 0, 0, 2, 0, 3, 36] State.reset) = some 0x00041507 := by decide
/-- V-10TC-2. -/
theorem test_packD10TC_padding :
    outView (sent [0x16, 24, 17, 1, 0, 3, 0, 0, 0, 2, 1, 1, 37] State.reset) =
      [some 6, some 0, some 37, some 0x84443011, some 0x20000000] := by decide
/-- V-10TC-3. -/
theorem test_packD10TC_pri_range :
    shows 1 (sent [0x16, 24, 0, 0, 0, 0, 0, 0, 0, 0, 8, 0, 35] State.reset) =
      some 0x000A1607 := by decide
/-- V-RAR-3. -/
theorem test_packRar_fields :
    outView (sent [0x17, 1, 0x1234, 5, 9, 3, 0] State.reset) =
      [some 6, some 0, some 27, some 0xA468B2C0, some 0] := by decide
/-- V-RAR-4. -/
theorem test_packRar_freq_range :
    shows 1 (sent [0x17, 0, 0x4000, 0, 0, 0, 0] State.reset) = some 0x00021707 := by decide
/-- V-HDR-1: the header alone is consumed. -/
theorem test_reserved_header :
    (sent [0x00000102, 7] State.reset).map (fun s => (s.faultCause, s.port)) = some (0x02, [7]) := by
  decide
/-- V-FLT-2: an illegal word after a payload; ACC_FINAL stays, OUT_VALID drops. -/
theorem test_illegal_opcode_after_payload :
    outView (sent [0x00000018]
      { State.reset with acc := [true], accFinal := true, out := [true], outValid := true }) =
      [some 3, some 0x00001801, none, none, none] := by decide
/-- V-FLT-1: while FAULT = 1 nothing is executed. -/
theorem test_halted : step { State.reset with fault := true, port := [1] } = .fault .halted := by rfl
/-- V-HDR-6 and the state after reset: the block waits. -/
theorem test_waits :
    step State.reset = .fault .awaitingWords ∧
    step { State.reset with port := [0x14, 48, 1000, 3] } = .fault .awaitingWords := ⟨by rfl, by rfl⟩

/-! ### Witnesses: states and operands that meet the hypotheses of each obligation -/

/-- A final accumulator whose bits have been yielded. -/
def busy : State :=
  { State.reset with acc := [true, false], accFinal := true, out := [true, false], outValid := true }

/-- A state that has taken a fault, with a word left at the port. -/
def stopped : State :=
  { busy with
    outValid := false, fault := true, faultCause := 0x0C, faultOpcode := 0x10, faultField := 14,
    port := [1] }

/-- A full, open accumulator. -/
def full : State := { State.reset with acc := List.replicate 128 true }

theorem full_acc_length : full.acc.length = 128 := List.length_replicate

theorem witness_bits : (0 < 2 ^ 0 ∧ 7 < 2 ^ 3 ∧ 0 < 2 ^ 3) ∧ (0 < 3 ∧ 2 < 3) := by decide

theorem witness_clog2 : 1 ≤ 1 ∧ 1 ≤ 2 ^ 0 ∧ 37950 ≤ 2 ^ 16 := by decide

theorem witness_freqWidth : 1 ≤ 1 ∧ 1 ≤ 275 ∧ 275 ≤ 275 := by decide

theorem witness_decodeOfEncode :
    Instr.accClear.wellFormed = true ∧
    (Instr.packRar ⟨2 ^ 32 - 1, 0, 0, 0, 0, 2 ^ 32 - 1⟩).wellFormed = true := by decide

theorem witness_decodedWords :
    decode [1] = .command .accClear [] ∧
    decode [3, 0xFFFFFFFF, 9] = .command (.accZeros 0xFFFFFFFF) [9] := by decide

theorem witness_stepRunsDecoded :
    let s : State := { busy with port := [3, 2, 7] }
    s.fault = false ∧ decode s.port = .command (.accZeros 2) [7] ∧
      (Instr.accZeros 2).wellFormed = true := by decide

/-- Reserved bits 8 and 31, the illegal opcodes next to the map, and a header with one operand word too
few, just enough, and one more. -/
theorem witness_headerDecoding :
    State.reset.fault = false ∧
    (0x00000101 : Word).extractLsb' 8 24 ≠ 0 ∧ (0x80000001 : Word).extractLsb' 8 24 ≠ 0 ∧
    (0x00000018 : Word).extractLsb' 8 24 = 0 ∧
    (lookupOpcode 0x00).isNone = true ∧ (lookupOpcode 0x18).isNone = true ∧
    (lookupOpcode 0x02).isSome = true ∧ (lookupOpcode 0x02).map (fun r => r.count) = some 2 ∧
    [(5 : Word)].length < 2 ∧ 2 ≤ [(5 : Word), 3].length ∧ 2 ≤ [(5 : Word), 3, 1].length := by decide

theorem witness_partialCommand :
    (Instr.accAppend 5 3).wellFormed = true ∧
    0 < (encode (.accAppend 5 3)).length ∧ 2 < (encode (.accAppend 5 3)).length ∧
    State.reset.port = (encode (.accAppend 5 3)).take 0 ∧
    ({ State.reset with port := [2, 5] } : State).port = (encode (.accAppend 5 3)).take 2 ∧
    ({ State.reset with port := [2, 5] } : State).fault = false := by decide

/-- Two commands that complete; a fault with a command behind it, so that both sides stop; and commands at
a port that is blocked. -/
theorem witness_portRuns :
    (∀ i ∈ [Instr.accAppend 5 3, .accFinalize], i.wellFormed = true) ∧
    runCommands [.accAppend 5 3, .accFinalize] { State.reset with port := [9] } =
      .next { State.reset with
        acc := [true, false, true], accFinal := true, out := [true, false, true], outValid := true,
        port := [9] } ∧
    (∀ i ∈ [Instr.accAppend 8 3, .accClear], i.wellFormed = true) ∧
    runCommands [.accAppend 8 3, .accClear] { State.reset with port := [9] } = .fault .halted ∧
    runCommands [.accClear] { stopped with port := [9] } = .fault .halted :=
  ⟨by decide, by rfl, by decide, by rfl, by rfl⟩

theorem witness_faultHalts :
    stopped.fault = true ∧ Event.push 1 ≠ .resetInput ∧ Event.blockStep ≠ .resetInput ∧
    Event.read 0 ≠ .resetInput := by decide

theorem witness_faultHalts_react :
    react (.push 1) stopped = .next stopped ∧ react (.read 0) stopped = .next stopped :=
  ⟨by rfl, by rfl⟩

theorem witness_registerMap :
    full.acc.length ≤ 128 ∧ busy.outValid = true ∧ busy.out.length ≤ 128 ∧ 3 < 4 ∧ 31 < 32 :=
  ⟨full_acc_length.le, by decide⟩

theorem witness_leftJustified :
    ([] : Payload).length ≤ 128 ∧ full.acc.length ≤ 128 :=
  ⟨by decide, full_acc_length.le⟩

theorem witness_refusedReads :
    (12 ≤ 12 ∧ 15 < 16) ∧ (8 ≤ 8 ∧ 11 < 12) ∧ (2 < 3 ∧ 4 ≤ 4 ∧ 7 < 8) ∧
    stopped.outValid = false ∧ busy.outValid = true := by decide

theorem witness_hiddenState :
    stopped.outValid = false ∧ State.reset.outValid = false := by decide

/-- The three cases of a step from a state with OUT_VALID = 0: none, with a payload, without one. -/
theorem witness_hiddenState_steps :
    step State.reset = .fault .awaitingWords ∧
    (∃ t, step { State.reset with port := [4] } = .next t ∧ t.outValid = true) ∧
    (∃ t, step { State.reset with port := [1] } = .next t ∧ t.outValid = false) :=
  ⟨by rfl, ⟨_, rfl, rfl⟩, ⟨_, rfl, rfl⟩⟩

/-- At the bound M: 96 bits and 32 more, 128 bits and none more. -/
theorem witness_appendedBits :
    ({ State.reset with acc := List.replicate 96 true } : State).accFinal = false ∧
    ({ State.reset with acc := List.replicate 96 true } : State).acc.length + 32 ≤ 128 ∧
    full.accFinal = false ∧ full.acc.length + 0 ≤ 128 ∧
    32 ≤ 32 ∧ 0xFFFFFFFF < 2 ^ 32 ∧ 0 < 2 ^ 0 := by decide

/-- Fields that fill 128 bits; and a further field that breaks each condition alone. -/
theorem witness_sequenceLaw :
    let fields : List (Nat × Nat) := [(0, 32), (0xFFFFFFFF, 32), (1, 32), (0, 32)]
    busy.fault = false ∧ (∀ f ∈ fields, f.1 < 2 ^ f.2 ∧ f.2 ≤ 32) ∧
    (fields.map (fun f => f.2)).sum ≤ 128 ∧
    ¬ (0 < 2 ^ 1 ∧ 1 ≤ 32 ∧ (fields.map (fun f => f.2)).sum + 1 ≤ 128) ∧
    ¬ (1 < 2 ^ 0 ∧ 0 ≤ 32 ∧ (fields.map (fun f => f.2)).sum + 0 ≤ 128) ∧
    ¬ (0 < 2 ^ 33 ∧ 33 ≤ 32 ∧ 0 + 33 ≤ 128) := by decide

theorem witness_fieldExtraction :
    ∃ t, runCommands (.accAppend 5 3 :: [Emission.emitz 2, .emit 0 0].map Emission.command
        ++ [.accFinalize]) { State.reset with acc := [true] } = .next t ∧ t.fault = false :=
  ⟨_, rfl, rfl⟩

theorem witness_hoppingWidths : 1 ≤ 1 ∧ 49 ≤ 49 ∧ 50 ≤ 275 ∧ 275 ≤ 275 := by decide

theorem witness_frequencySplit :
    (0 ≠ 1 ∧ 2 ≠ 1) ∧ (2 ≤ 2 ∧ 3 < 2 ^ 2 ∧ 0 < 2 ^ (2 - 2)) ∧ (2 ≤ 11 ∧ 511 < 2 ^ (11 - 2)) := by
  decide

/-! Legal descriptors: the least one, and one with every operand at its largest. -/

theorem witness_packD00C_least :
    D00C.Legal ⟨1, 0, 0, 0, 0, 0, 0, 0, 0, 0, 0, 0, 0, 20⟩ := by
  unfold D00C.Legal FreqLegal HopLegal SizeLegal; decide

/-- V-00C-1 with every field at its largest. -/
theorem witness_packD00C_hopping_sul :
    D00C.Legal ⟨50, 4, 1, 3, 511, 15, 31, 1, 3, 15, 3, 1, 1, 128⟩ := by
  unfold D00C.Legal FreqLegal HopLegal SizeLegal; decide

theorem witness_packD00TC_least : D00TC.Legal ⟨1, 0, 0, 0, 0, 0, 0, 0, 15⟩ := by
  unfold D00TC.Legal FreqLegal HopLegal SizeLegal; decide

theorem witness_packD00TC_hopping : D00TC.Legal ⟨49, 1, 1, 1023, 15, 31, 3, 3, 128⟩ := by
  unfold D00TC.Legal FreqLegal HopLegal SizeLegal; decide

theorem witness_packD10C_least : D10C.Legal ⟨1, 0, 0, 0, 0, 0, 0, 0, 0, 0, 0, 0, 28⟩ := by
  unfold D10C.Legal FreqLegal SizeLegal; decide

theorem witness_packD10C_largest :
    D10C.Legal ⟨275, 37949, 15, 1, 31, 1, 3, 15, 3, 3, 7, 7, 128⟩ := by
  unfold D10C.Legal FreqLegal SizeLegal; decide

theorem witness_packD10P_smi1 : D10P.Legal ⟨1, 1, 0, 0, 0, 0, 0, 0, 28⟩ := by
  unfold D10P.Legal FreqLegal SizeLegal; decide

theorem witness_packD10P_smi2 : D10P.Legal ⟨48, 2, 255, 1175, 15, 1, 31, 2, 39⟩ := by
  unfold D10P.Legal FreqLegal SizeLegal; decide

theorem witness_packD10P_smi3 : D10P.Legal ⟨275, 3, 255, 37949, 15, 1, 31, 2, 128⟩ := by
  unfold D10P.Legal FreqLegal SizeLegal; decide

theorem witness_packD10SI_least : D10SI.Legal ⟨1, 0, 0, 0, 0, 0, 0, 28⟩ := by
  unfold D10SI.Legal FreqLegal SizeLegal; decide

theorem witness_packD10SI_largest : D10SI.Legal ⟨275, 37949, 15, 1, 31, 3, 1, 128⟩ := by
  unfold D10SI.Legal FreqLegal SizeLegal; decide

theorem witness_packD10RA_least : D10RA.Legal ⟨1, 0, 0, 0, 0, 0, 28⟩ := by
  unfold D10RA.Legal FreqLegal SizeLegal; decide

theorem witness_packD10RA_largest : D10RA.Legal ⟨275, 37949, 15, 1, 31, 2, 128⟩ := by
  unfold D10RA.Legal FreqLegal SizeLegal; decide

theorem witness_packD10TC_least : D10TC.Legal ⟨1, 0, 0, 0, 0, 0, 0, 0, 0, 0, 0, 26⟩ := by
  unfold D10TC.Legal FreqLegal SizeLegal; decide

theorem witness_packD10TC_largest :
    D10TC.Legal ⟨275, 37949, 15, 1, 31, 1, 3, 15, 3, 7, 7, 128⟩ := by
  unfold D10TC.Legal FreqLegal SizeLegal; decide

theorem witness_packRar_least : RarGrant.Legal ⟨0, 0, 0, 0, 0, 0⟩ := by
  unfold RarGrant.Legal; decide

theorem witness_packRar_largest : RarGrant.Legal ⟨1, 16383, 15, 15, 7, 1⟩ := by
  unfold RarGrant.Legal; decide

/-- At the bound of D10TCIsD10CWithoutDai. -/
theorem witness_d10TCIsD10C :
    D10TC.Legal ⟨275, 37949, 15, 1, 31, 1, 3, 15, 3, 7, 7, 126⟩ ∧ 3 < 4 ∧ 126 + 2 ≤ 128 := by
  unfold D10TC.Legal FreqLegal SizeLegal; decide

/-- A packing command with legal operands, and one with illegal ones. -/
theorem witness_packLayout :
    (∃ l, (Instr.packRar ⟨1, 16383, 15, 15, 7, 1⟩).packLayout = some l) ∧
    (Instr.packRar ⟨1, 16383, 15, 15, 7, 1⟩).PackLegal ∧
    ¬ (Instr.packRar ⟨2, 16383, 15, 15, 7, 1⟩).PackLegal :=
  ⟨⟨_, rfl⟩, witness_packRar_largest, by
    unfold Instr.PackLegal RarGrant.Legal; decide⟩

theorem witness_packedLength :
    ∃ t, (Instr.packRar ⟨1, 16383, 15, 15, 7, 1⟩).payloadSize = some 27 ∧ busy.fault = false ∧
      exec (.packRar ⟨1, 16383, 15, 15, 7, 1⟩) busy = .next t ∧ t.fault = false :=
  ⟨_, rfl, rfl, rfl, rfl⟩

/-- The clauses of GatedOperandsAreNotEmitted: each gate closed, the gated operand at its largest. -/
theorem witness_gatedOperands :
    D10P.Legal ⟨48, 1, 255, 1175, 15, 1, 31, 2, 39⟩ ∧
    D00C.Legal ⟨50, 4, 0, 3, 1274, 0, 0, 0, 0, 0, 0, 0, 1, 31⟩ ∧
    D00TC.Legal ⟨50, 0, 3, 1274, 0, 0, 0, 0, 26⟩ := by
  unfold D10P.Legal D00C.Legal D00TC.Legal FreqLegal HopLegal SizeLegal; decide

/-- The hypothesis of the atomicity clause, with a command that completes and with one that faults. -/
theorem witness_totalAndAtomic :
    busy.fault = false ∧ (∃ t, exec .accClear busy = .next t ∧ t.fault = false) ∧
    (∃ t, exec .accFinalize busy = .next t ∧ t.fault = true) :=
  ⟨rfl, ⟨_, rfl, rfl⟩, ⟨_, rfl, rfl⟩⟩

/-- The ranges of the registers that hold a value at reset, and of those that hold none. -/
theorem witness_resetValues :
    (0 < 3 ∧ 2 < 3 ∧ 4 ≤ 4 ∧ 7 < 8) ∧ (8 ≤ 8 ∧ 11 < 12) ∧
    (readRegister 0 State.reset).isOk = true ∧ (readRegister 3 State.reset).isOk = false := by decide

theorem witness_faultEntry :
    ∃ t, ({ busy with port := [0x18, 7] } : State).port = 0x18 :: [7] ∧
      step { busy with port := [0x18, 7] } = .next t ∧ t.fault = true :=
  ⟨_, rfl, rfl, rfl⟩

theorem witness_faultCauses :
    (∃ t, step { busy with port := encode (.accAppend 0 0) } = .next t ∧ t.fault = true) ∧
    (∃ t, step { busy with port := [0x05] } = .next t ∧ t.fault = true) ∧
    (∃ t, step { busy with port := [0x101] } = .next t ∧ t.fault = true) :=
  ⟨⟨_, rfl, rfl⟩, ⟨_, rfl, rfl⟩, ⟨_, rfl, rfl⟩⟩

/-- OUT written and set valid by a finalize; OUT_VALID cleared by a fault. -/
theorem witness_outChanges :
    (∃ t, step { State.reset with acc := [true], port := [4] } = .next t ∧ t.out = [true] ∧
      t.outValid = true) ∧
    (∃ t, step { busy with port := [4] } = .next t ∧ busy.outValid = true ∧ t.outValid = false) :=
  ⟨⟨_, rfl, rfl, rfl⟩, ⟨_, rfl, rfl, rfl⟩⟩

/-- States with the invariants: full, final and valid, and faulted. -/
theorem witness_inv : full.Inv ∧ busy.Inv ∧ stopped.Inv := by
  unfold State.Inv
  exact ⟨⟨full_acc_length.le, by decide⟩, by decide, by decide⟩

theorem witness_finalInv_recordInv :
    full.FinalInv ∧ busy.FinalInv ∧ stopped.FinalInv ∧ full.RecordInv ∧ busy.RecordInv ∧
    stopped.RecordInv := by
  unfold State.FinalInv State.RecordInv
  exact ⟨fun h => Bool.noConfusion h, by decide, by decide, by decide, by decide, by decide⟩

/-- A step from such a state by a packing command, and one by an overflow at the bound. -/
theorem witness_inv_step :
    (∃ t, step { busy with port := encode (.packRar ⟨1, 16383, 15, 15, 7, 1⟩) } = .next t ∧
      decode (encode (.packRar ⟨1, 16383, 15, 15, 7, 1⟩)) =
        .command (.packRar ⟨1, 16383, 15, 15, 7, 1⟩) [] ∧ t.fault = false) ∧
    (∃ t, step { State.reset with port := encode (.accZeros 129) } = .next t ∧ t.fault = true) :=
  ⟨⟨_, rfl, by decide, rfl⟩, ⟨_, rfl, rfl⟩⟩

theorem witness_events :
    react .blockStep { full with port := [1] } =
      .next { full with acc := [], port := [] } ∧
    react (.push 5) full = .next { full with port := [5] } ∧
    react (.read 4) full = .next full ∧ react .resetInput full = .next State.reset :=
  ⟨by rfl, by rfl, by rfl, by rfl⟩

/-- A legal packing command behind which another word waits; and a command that faults. -/
theorem witness_delivered :
    decode (encode (.packRar ⟨1, 0, 0, 0, 0, 0⟩) ++ [9]) = .command (.packRar ⟨1, 0, 0, 0, 0, 0⟩) [9] ∧
    (Instr.packRar ⟨1, 0, 0, 0, 0, 0⟩).PackLegal ∧
    (∃ t, step { busy with port := encode (.packRar ⟨1, 0, 0, 0, 0, 0⟩) ++ [9] } = .next t) ∧
    (∃ t, step { busy with port := [4] } = .next t ∧ t.fault = true) :=
  ⟨by decide, by unfold Instr.PackLegal RarGrant.Legal; decide, ⟨_, rfl⟩, ⟨_, rfl, rfl⟩⟩

end Sys2Proof.Tests
end

section
/-! The arithmetic of payloads against 00_scope.md R6, R8 and R12 and 41_packer_common.md R114: `num` as
the positional sum, `clog2` as a least exponent, and the table of the frequency field's widths. -/

namespace Sys2Proof.Machine

open Finset

/-! ### Parameters -/

/-- Settles O1: the five parameters, each by its definition. -/
theorem parameterValues : Obligations.ParameterValues :=
  ⟨rfl, rfl, rfl, rfl, rfl⟩

/-! ### The number of a payload -/

@[simp] theorem payloadBit_cons_zero (x : Bool) (a : Payload) : payloadBit (x :: a) 0 = x := rfl

@[simp] theorem payloadBit_cons_succ (x : Bool) (a : Payload) (p : Nat) :
    payloadBit (x :: a) (p + 1) = payloadBit a p := rfl

theorem num_eq_sum (a : Payload) :
    num a = ∑ p ∈ range a.length, (payloadBit a p).toNat * 2 ^ (a.length - 1 - p) := by
  induction a with
  | nil => simp
  | cons x a ih =>
    rw [num_cons, ih, List.length_cons, sum_range_succ', Nat.add_comm]
    simp [Nat.sub_sub, Nat.add_comm]

/-- Settles O3, by induction on the payload: the first bit has the weight of all bits behind it. -/
theorem numIsThePositionalSum : Obligations.NumIsThePositionalSum := num_eq_sum

/-! ### The least exponent -/

theorem le_two_pow_clog2From {x fuel w : Nat} (hx : x ≤ 2 ^ (w + fuel)) :
    x ≤ 2 ^ clog2From x fuel w := by
  induction fuel generalizing w with
  | zero => exact hx
  | succ fuel ih =>
    rw [clog2From]
    split
    next hw => exact hw
    next => exact ih (by rwa [Nat.succ_add_eq_add_succ])

theorem clog2From_le {x fuel w v : Nat} (hwv : w ≤ v) (hx : x ≤ 2 ^ v) : clog2From x fuel w ≤ v := by
  induction fuel generalizing w with
  | zero => exact hwv
  | succ fuel ih =>
    rw [clog2From]
    split
    next => exact hwv
    next hw =>
      have hne : w ≠ v := fun h => hw (h ▸ hx)
      exact ih (by omega)

theorem le_two_pow_clog2 (x : Nat) : x ≤ 2 ^ clog2 x :=
  le_two_pow_clog2From (by simpa using Nat.lt_two_pow_self.le)

/-- `clog2` is the lower adjoint of `2 ^ ·`; everything below about widths goes through this. -/
theorem clog2_le_iff {x w : Nat} : clog2 x ≤ w ↔ x ≤ 2 ^ w :=
  ⟨fun h => (le_two_pow_clog2 x).trans (Nat.pow_le_pow_right (by decide) h),
    clog2From_le (Nat.zero_le w)⟩

/-- Settles O4: the search ends at a sufficient exponent and passes none, and the four worked values. -/
theorem clog2IsLeastExponent : Obligations.Clog2IsLeastExponent :=
  ⟨fun x _ => ⟨le_two_pow_clog2 x, fun _ => clog2_le_iff.mpr⟩, rfl, rfl, rfl, rfl⟩

/-! ### The width of the frequency field -/

theorem resourceValues_mono : Monotone resourceValues := fun _ _ h =>
  Nat.div_le_div_right (Nat.mul_le_mul h (Nat.succ_le_succ h))

theorem freqWidth_le_iff {n w : Nat} : freqWidth n ≤ w ↔ resourceValues n ≤ 2 ^ w := clog2_le_iff

theorem freqWidth_le_of_le {n hi w : Nat} (hn : n ≤ hi) (hhi : resourceValues hi ≤ 2 ^ w) :
    freqWidth n ≤ w :=
  freqWidth_le_iff.mpr ((resourceValues_mono hn).trans hhi)

theorem freqWidth_mono : Monotone freqWidth := fun _ _ h =>
  freqWidth_le_of_le h (le_two_pow_clog2 _)

theorem lt_freqWidth_of_lt {n lo w : Nat} (hn : lo < n) (hlo : 2 ^ w < resourceValues (lo + 1)) :
    w < freqWidth n :=
  lt_of_not_ge fun h =>
    (hlo.trans_le (resourceValues_mono hn)).not_ge (freqWidth_le_iff.mp h)

/-- A row of R114's table: the resource block counts above `lo` and up to `hi`. -/
theorem freqWidth_eq_of_row {n lo hi w : Nat}
    (hlo : ¬ n ≤ lo) (hrow : 2 ^ w < resourceValues (lo + 1) ∧ resourceValues hi ≤ 2 ^ (w + 1))
    (hhi : n ≤ hi) : freqWidth n = w + 1 :=
  le_antisymm (freqWidth_le_of_le hhi hrow.2) (lt_freqWidth_of_lt (lt_of_not_ge hlo) hrow.1)

/-- A row of R114's table with the rows behind it, as the table's chain of conditions has them. -/
theorem freqWidth_eq_ite_of_row {n lo hi w rest : Nat}
    (hlo : ¬ n ≤ lo) (hrow : 2 ^ w < resourceValues (lo + 1) ∧ resourceValues hi ≤ 2 ^ (w + 1))
    (hrest : ¬ n ≤ hi → freqWidth n = rest) :
    freqWidth n = if n ≤ hi then w + 1 else rest := by
  split
  next hhi => exact freqWidth_eq_of_row hlo hrow hhi
  next hhi => exact hrest hhi

/-- `T(1) = 1` and `T(2) = 3`: no number of resource indication values needs exactly one bit. -/
theorem freqWidth_ne_one (n : Nat) : freqWidth n ≠ 1 := by
  rcases Nat.lt_or_ge 1 n with htwo | hone
  · exact (lt_freqWidth_of_lt htwo (by decide)).ne'
  · exact (Nat.lt_succ_of_le (freqWidth_le_of_le hone (by decide))).ne

/-- Settles O5: after the first row, each of the table's fourteen conditions is a row that begins above
the condition before it, and so is what is left up to 275. -/
theorem frequencyWidthTable : Obligations.FrequencyWidthTable := by
  refine ⟨fun _ _ _ h => freqWidth_mono h, fun n _ => freqWidth_ne_one n, fun n _ hmax => ?_⟩
  by_cases hlo : n ≤ 1
  · rw [if_pos hlo]
    exact Nat.le_zero.mp (freqWidth_le_of_le hlo (by decide))
  · rw [if_neg hlo]
    iterate 14 refine freqWidth_eq_ite_of_row hlo (by decide) fun hlo => ?_
    exact freqWidth_eq_of_row hlo (by decide) hmax

end Sys2Proof.Machine
end

section
/-! Every command in one form: the checks it makes and the effect it has where none fails
(40_accumulator.md R79), and what a step can then do. -/

namespace Sys2Proof

open Machine

/-! ### A command's checks and its effect -/

/-- The checks of a command in the order of its rule (60_exceptions.md R185). -/
def Instr.checks : Instr → State → List Check
  | .accClear, _ => []
  | .accAppend value width, s => appendChecks value width s
  | .accZeros n, s => zerosChecks n s
  | .accFinalize, s => finalizeChecks s
  | .packD00C d, _ => checksD00C d
  | .packD00TC d, _ => checksD00TC d
  | .packD10C d, _ => checksD10C d
  | .packD10P d, _ => checksD10P d
  | .packD10SI d, _ => checksD10SI d
  | .packD10RA d, _ => checksD10RA d
  | .packD10TC d, _ => checksD10TC d
  | .packRar d, _ => checksRar d

/-- What a command does to the state where none of its checks fails (40_accumulator.md R80 to R83,
41_packer_common.md R102). -/
def Instr.effect : Instr → State → State
  | .accClear => clearAcc
  | .accAppend value width => extendAcc (bits value width)
  | .accZeros n => extendAcc (zeros n)
  | .accFinalize => finalizeAcc
  | .packD00C d => commit (emitAll (layoutD00C d))
  | .packD00TC d => commit (emitAll (layoutD00TC d))
  | .packD10C d => commit (emitAll (layoutD10C d))
  | .packD10P d => commit (emitAll (layoutD10P d))
  | .packD10SI d => commit (emitAll (layoutD10SI d))
  | .packD10RA d => commit (emitAll (layoutD10RA d))
  | .packD10TC d => commit (emitAll (layoutD10TC d))
  | .packRar d => commit (emitAll (layoutRar d))

/-- Executing a command is running its effect under its checks. -/
theorem exec_eq_checks_effect (i : Instr) (s : State) :
    exec i s = runChecked i.opcode (i.checks s) i.effect s := by
  cases i <;> rfl

theorem effect_of_packLayout {i : Instr} {l : List Emission} (h : i.packLayout = some l) :
    i.effect = commit (emitAll l) := by
  cases i <;> cases h <;> rfl

/-- No check of a command looks at OUT (10_state.md R33). -/
theorem checks_withOut (i : Instr) (s : State) (o : Payload) :
    i.checks { s with out := o } = i.checks s := by
  cases i <;> rfl

theorem operands_length_le (i : Instr) : i.operands.length ≤ 14 := by
  cases i <;> simp [Instr.operands]

/-- A check names an operand of its own command, or 0 (10_state.md R28). -/
theorem checks_field_le {i : Instr} {s : State} {c : Check} (hc : c ∈ i.checks s) :
    c.field ≤ i.operands.length := by
  have hall : (i.checks s).all (fun c => decide (c.field ≤ i.operands.length)) = true := by
    cases i <;> rfl
  simpa using List.all_eq_true.mp hall c hc

end Sys2Proof

namespace Sys2Proof.Machine

/-! ### Operations that yield OUT and operations that carry it along -/

/-- The operation yields a payload: it writes OUT from the accumulator, whatever OUT held before. -/
structure YieldsOut (f : State → State) : Prop where
  outValid : ∀ s, (f s).outValid = true
  accFinal : ∀ s, (f s).accFinal = true
  out_eq_acc : ∀ s, (f s).out = (f s).acc
  ignores_out : ∀ s o, f { s with out := o } = f s

/-- The operation leaves OUT and OUT_VALID alone, and nothing it writes depends on OUT's bits. -/
structure CarriesOut (f : State → State) : Prop where
  out : ∀ s, (f s).out = s.out
  outValid : ∀ s, (f s).outValid = s.outValid
  carries_out : ∀ s o, f { s with out := o } = { f s with out := o }

theorem clearAcc_carriesOut : CarriesOut clearAcc := ⟨fun _ => rfl, fun _ => rfl, fun _ _ => rfl⟩

theorem extendAcc_carriesOut (a : Payload) : CarriesOut (extendAcc a) :=
  ⟨fun _ => rfl, fun _ => rfl, fun _ _ => rfl⟩

theorem finalizeAcc_yieldsOut : YieldsOut finalizeAcc :=
  ⟨fun _ => rfl, fun _ => rfl, fun _ => rfl, fun _ _ => rfl⟩

theorem commit_yieldsOut (p : Payload) : YieldsOut (commit p) :=
  ⟨fun _ => rfl, fun _ => rfl, fun _ => rfl, fun _ _ => rfl⟩

/-! ### What a command's effect can be -/

/-- The five operations that a command can come to. -/
theorem effect_cases (i : Instr) :
    (i = .accClear ∧ i.effect = clearAcc) ∨
    (∃ v w, i = .accAppend v w ∧ i.effect = extendAcc (bits v w)) ∨
    (∃ n, i = .accZeros n ∧ i.effect = extendAcc (zeros n)) ∨
    (i = .accFinalize ∧ i.effect = finalizeAcc) ∨
    (∃ l, i.packLayout = some l ∧ i.effect = commit (emitAll l)) := by
  cases hl : i.packLayout with
  | some l => exact .inr (.inr (.inr (.inr ⟨l, rfl, effect_of_packLayout hl⟩)))
  | none =>
    cases i with
    | accClear => exact .inl ⟨rfl, rfl⟩
    | accAppend v w => exact .inr (.inl ⟨v, w, rfl, rfl⟩)
    | accZeros n => exact .inr (.inr (.inl ⟨n, rfl, rfl⟩))
    | accFinalize => exact .inr (.inr (.inr (.inl ⟨rfl, rfl⟩)))
    | _ => cases hl

/-- ACC.FINALIZE and the packing commands yield OUT; the others carry it along (10_state.md R27). -/
theorem effect_yieldsOut_or_carriesOut (i : Instr) :
    ((i = .accFinalize ∨ i.packLayout ≠ none) ∧ YieldsOut i.effect) ∨ CarriesOut i.effect := by
  rcases effect_cases i with ⟨_, he⟩ | ⟨v, w, _, he⟩ | ⟨n, _, he⟩ | ⟨hi, he⟩ | ⟨l, hl, he⟩ <;> rw [he]
  · exact .inr clearAcc_carriesOut
  · exact .inr (extendAcc_carriesOut _)
  · exact .inr (extendAcc_carriesOut _)
  · exact .inl ⟨.inl hi, finalizeAcc_yieldsOut⟩
  · exact .inl ⟨.inr (by simp [hl]), commit_yieldsOut _⟩

section frame

variable (i : Instr) (s : State)

@[simp] theorem effect_fault : (i.effect s).fault = s.fault := by cases i <;> rfl
@[simp] theorem effect_faultCause : (i.effect s).faultCause = s.faultCause := by cases i <;> rfl
@[simp] theorem effect_faultOpcode : (i.effect s).faultOpcode = s.faultOpcode := by cases i <;> rfl
@[simp] theorem effect_faultField : (i.effect s).faultField = s.faultField := by cases i <;> rfl
@[simp] theorem effect_port : (i.effect s).port = s.port := by cases i <;> rfl

end frame

/-- An extending command whose checks pass found the accumulator open (10_state.md R26), so a final
accumulator is always one that its own command has yielded. -/
theorem effect_keeps_finalInv {i : Instr} {s : State} (h : firstFailure (i.checks s) = none) :
    (i.effect s).FinalInv := by
  rw [firstFailure_eq_none] at h
  intro hfinal
  rcases effect_cases i with ⟨_, he⟩ | ⟨v, w, rfl, he⟩ | ⟨n, rfl, he⟩ | ⟨_, he⟩ | ⟨l, _, he⟩ <;>
    rw [he] at hfinal ⊢
  · cases hfinal
  · exact absurd hfinal (by simpa [raiseIf] using h _ (List.mem_cons_self ..))
  · exact absurd hfinal (by simpa [raiseIf] using h _ (List.mem_cons_self ..))
  · rfl
  · rfl

/-! ### What a step can do -/

section step

variable {s t : State}

theorem step_of_fault (hf : s.fault = true) : step s = .fault .halted := by
  simp [step, fetch, hf]

theorem step_of_incomplete (hf : s.fault = false) (hd : decode s.port = .incomplete) :
    step s = .fault .awaitingWords := by
  simp [step, fetch, hf, hd]

theorem step_of_reservedHeader {o : Octet} {rest : List Word} (hf : s.fault = false)
    (hd : decode s.port = .reservedHeader o rest) :
    step s = .next (takeFault .reservedHeader o 0 { s with port := rest }) := by
  simp [step, fetch, hf, hd]

theorem step_of_illegalOpcode {o : Octet} {rest : List Word} (hf : s.fault = false)
    (hd : decode s.port = .illegalOpcode o rest) :
    step s = .next (takeFault .illegalOpcode o 0 { s with port := rest }) := by
  simp [step, fetch, hf, hd]

theorem step_of_command {i : Instr} {rest : List Word} (hf : s.fault = false)
    (hd : decode s.port = .command i rest) : step s = exec i { s with port := rest } := by
  simp [step, fetch, hf, hd]

/-- A step takes a fault, of the header or of a check, or it has the effect of the command at the
port. -/
theorem step_takeFault_or_effect (h : step s = .next t) :
    s.fault = false ∧ ∃ rest,
      (∃ c o k, k ≤ 14 ∧ t = takeFault c o k { s with port := rest }) ∨
      (∃ i, decode s.port = .command i rest ∧
        firstFailure (i.checks { s with port := rest }) = none ∧
        t = i.effect { s with port := rest }) := by
  obtain ⟨hf, hcases⟩ := step_cases h
  refine ⟨hf, ?_⟩
  rcases hcases with ⟨o, rest, _, ht⟩ | ⟨o, rest, _, ht⟩ | ⟨i, rest, hd, hexec⟩
  · exact ⟨rest, .inl ⟨_, o, 0, Nat.zero_le _, ht⟩⟩
  · exact ⟨rest, .inl ⟨_, o, 0, Nat.zero_le _, ht⟩⟩
  · rw [exec_eq_checks_effect] at hexec
    rcases runChecked_cases hexec with ⟨c, hc, ht⟩ | ⟨hpass, ht⟩
    · have hfield := checks_field_le (firstFailure_eq_some hc).1
      exact ⟨rest, .inl ⟨c.cause, i.opcode, c.field, hfield.trans (operands_length_le i), ht⟩⟩
    · exact ⟨rest, .inr ⟨i, hd, hpass, ht⟩⟩

end step

end Sys2Proof.Machine
end

section
/-! The state and its registers against 10_state.md: the register map, the reads that are refused, the
reset values, what changes OUT, and what no host can observe. -/

namespace Sys2Proof.Machine

/-! ### The words of the registers -/

/-- A payload's number in binary: its last bit is bit 0 (00_scope.md R8). -/
theorem testBit_num {a : Payload} {j : Nat} (hj : j < a.length) :
    (num a).testBit j = payloadBit a (a.length - 1 - j) := by
  induction a with
  | nil => cases hj
  | cons x a ih =>
    rw [num_cons, Nat.mul_comm, Nat.testBit_two_pow_mul_add _ (num_lt a)]
    rcases Nat.lt_succ_iff_lt_or_eq.mp hj with hlt | rfl
    · have hpos : (x :: a).length - 1 - j = a.length - 1 - j + 1 := by simp; omega
      rw [if_pos hlt, ih hlt, hpos, payloadBit_cons_succ]
    · cases x <;> simp

theorem payloadBit_map_range (f : Nat → Bool) {n p : Nat} (hp : p < n) :
    payloadBit ((List.range n).map f) p = f p := by
  simp [payloadBit, hp]

/-- A register word shows 32 positions of the payload, the first of them in bit 31 (10_state.md R29). -/
theorem payloadWord_getLsbD (a : Payload) (k : Nat) {j : Nat} (hj : j < 32) :
    (payloadWord a k).getLsbD j = payloadBit a (32 * k + 31 - j) := by
  rw [payloadWord, BitVec.getLsbD_ofNat, testBit_num (by simpa using hj), List.length_map,
    List.length_range, payloadBit_map_range _ (by omega), Nat.add_sub_assoc (by omega)]
  simp [hj]

@[simp] theorem payloadWord_nil (k : Nat) : payloadWord [] k = 0 := by
  apply BitVec.eq_of_getLsbD_eq
  intro j hj
  simp [payloadWord_getLsbD _ _ hj, payloadBit]

theorem lengthWord_toNat {a : Payload} (h : a.length ≤ 128) : (lengthWord a).toNat = a.length := by
  simp [lengthWord]; omega

theorem statusWord_bits (s : State) :
    (statusWord s).getLsbD 0 = s.fault ∧ (statusWord s).getLsbD 1 = s.accFinal ∧
    (statusWord s).getLsbD 2 = s.outValid ∧ (statusWord s).extractLsb' 3 29 = 0 := by
  unfold statusWord
  generalize s.fault = f, s.accFinal = a, s.outValid = v
  revert f a v
  decide

/-- FAULT_INFO is the three octets of the record, one above another. -/
theorem faultInfoWord_toNat (s : State) :
    (faultInfoWord s).toNat
      = s.faultCause.toNat + 2 ^ 8 * s.faultOpcode.toNat + 2 ^ 16 * s.faultField.toNat := by
  rw [faultInfoWord, BitVec.toNat_ofNat]
  exact Nat.mod_eq_of_lt (by omega)

theorem faultInfoWord_octets (s : State) :
    (faultInfoWord s).extractLsb' 0 8 = s.faultCause ∧
    (faultInfoWord s).extractLsb' 8 8 = s.faultOpcode ∧
    (faultInfoWord s).extractLsb' 16 8 = s.faultField ∧
    (faultInfoWord s).extractLsb' 24 8 = 0 := by
  refine ⟨?_, ?_, ?_, ?_⟩ <;> apply BitVec.eq_of_toNat_eq <;>
    rw [BitVec.extractLsb'_toNat, faultInfoWord_toNat, Nat.shiftRight_eq_div_pow] <;> simp <;> omega

/-! ### Register reads by index -/

section readRegister

variable {k : Nat} {w : Word} (s : State)

theorem readRegister_accWord (hk : k < 4) :
    readRegister (BitVec.ofNat 4 (4 + k)) s = .ok (payloadWord s.acc k) := by
  have hcases := readRegister_cases (4 + k) (by omega) s
  grind

theorem readRegister_outWord (hk : k < 4) :
    readRegister (BitVec.ofNat 4 (8 + k)) s = outRegister s (payloadWord s.out k) := by
  have hcases := readRegister_cases (8 + k) (by omega) s
  grind

/-- STATUS, FAULT_INFO, ACC_LEN and ACC_W0 to ACC_W3 always hold a value (10_state.md R31). -/
theorem readRegister_eq_ok (hk : k < 3 ∨ 4 ≤ k ∧ k < 8) :
    ∃ w, readRegister (BitVec.ofNat 4 k) s = .ok w := by
  have hcases := readRegister_cases k (by omega) s
  grind

/-- OUT_LEN and OUT_W0 to OUT_W3 answer as OUT_VALID lets them (10_state.md R31). -/
theorem readRegister_eq_outRegister (hk : k = 3 ∨ 8 ≤ k ∧ k < 12) :
    ∃ w, readRegister (BitVec.ofNat 4 k) s = outRegister s w := by
  have hcases := readRegister_cases k (by omega) s
  grind

theorem readRegister_unassigned (h12 : 12 ≤ k) (h16 : k < 16) :
    readRegister (BitVec.ofNat 4 k) s = .error .unassignedRegister := by
  have hcases := readRegister_cases k h16 s
  grind

variable {s}

theorem outRegister_of_valid (h : s.outValid = true) : outRegister s w = .ok w := by
  simp [outRegister, h]

theorem outRegister_of_not_valid (h : s.outValid = false) :
    outRegister s w = .error .outHasNoValue := by
  simp [outRegister, h]

theorem react_read_of_ok {index : BitVec 4} (h : readRegister index s = .ok w) :
    react (.read index) s = .next s := by
  simp [react, h]

theorem react_read_of_error {index : BitVec 4} {r : Refusal} (h : readRegister index s = .error r) :
    react (.read index) s = .refused r := by
  simp [react, h]

end readRegister

/-! ### The register map -/

/-- Settles O16, register by register. -/
theorem registerMapOfR29 : Obligations.RegisterMapOfR29 := fun s =>
  ⟨⟨statusWord s, rfl, statusWord_bits s⟩,
    ⟨faultInfoWord s, rfl, faultInfoWord_octets s⟩,
    fun hlen => ⟨lengthWord s.acc, rfl, lengthWord_toNat hlen⟩,
    fun hvalid hlen => ⟨lengthWord s.out, outRegister_of_valid hvalid, lengthWord_toNat hlen⟩,
    fun k hk => ⟨payloadWord s.acc k, readRegister_accWord s hk,
      fun _ hj => payloadWord_getLsbD s.acc k hj⟩,
    fun k hk hvalid => ⟨payloadWord s.out k,
      (readRegister_outWord s hk).trans (outRegister_of_valid hvalid),
      fun _ hj => payloadWord_getLsbD s.out k hj⟩⟩

/-- Settles O18, by the three groups of register indices. -/
theorem refusedRegisterReads : Obligations.RefusedRegisterReads := by
  intro s k hk
  refine ⟨fun h12 => react_read_of_error (readRegister_unassigned s h12 hk),
    fun hout hvalid => ?_, fun hheld => ?_, fun hout hvalid => ?_⟩
  · obtain ⟨w, hw⟩ := readRegister_eq_outRegister s hout
    exact react_read_of_error (hw.trans (outRegister_of_not_valid hvalid))
  · obtain ⟨w, hw⟩ := readRegister_eq_ok s hheld
    exact react_read_of_ok hw
  · obtain ⟨w, hw⟩ := readRegister_eq_outRegister s hout
    exact react_read_of_ok (hw.trans (outRegister_of_valid hvalid))

/-! ### Reset -/

/-- The registers that hold a value show 0 at reset (10_state.md R36). -/
theorem readRegister_reset {k : Nat} (hk : k < 3 ∨ 4 ≤ k ∧ k < 8) :
    readRegister (BitVec.ofNat 4 k) State.reset = .ok 0 := by
  rcases hk with hk | ⟨h4, h8⟩
  · interval_cases k <;> rfl
  · obtain ⟨j, rfl⟩ := Nat.exists_eq_add_of_le h4
    rw [readRegister_accWord _ (by omega)]
    exact congrArg _ (payloadWord_nil j)

/-- Settles O14: the elements and the registers at their reset values; the empty port gives no step. -/
theorem resetValues : Obligations.ResetValues := by
  refine ⟨fun _ => rfl, fun t ht => ?_, rfl, rfl, rfl, rfl, rfl, rfl, rfl, rfl,
    fun k hk => readRegister_reset hk, fun k hk => ?_⟩
  · rw [step_of_incomplete rfl rfl] at ht
    cases ht
  · obtain ⟨w, hw⟩ := readRegister_eq_outRegister State.reset hk
    exact hw.trans (outRegister_of_not_valid rfl)

/-! ### What changes OUT, and what a final accumulator holds -/

/-- Settles O54: a fault leaves OUT's bits and sets FAULT; a command's effect yields OUT or carries it
along. -/
theorem outChangesOnlyAsR27Says : Obligations.OutChangesOnlyAsR27Says := by
  intro s t hstep
  obtain ⟨hfault, rest, ⟨c, o, k, _, rfl⟩ | ⟨i, hd, _, rfl⟩⟩ := step_takeFault_or_effect hstep
  · simp
  · rcases effect_yieldsOut_or_carriesOut i with ⟨hi, hyields⟩ | hcarries
    · simp [hyields.outValid, hyields.accFinal, hyields.out_eq_acc, hfault, hd, hi]
    · simp +contextual [hcarries.out, hcarries.outValid]

theorem cause_code_le (c : Cause) : c.code.toNat ≤ 0x0C := by cases c <;> decide

/-- The fault entry records a cause's own code, and an index that a command has (60_exceptions.md R181). -/
theorem takeFault_recordInv (c : Cause) (o : Octet) {k : Nat} (s : State) (hk : k ≤ 14) :
    (takeFault c o k s).RecordInv :=
  ⟨cause_code_le c, by simp; omega⟩

/-- Settles O56: the fault entry touches neither the accumulator nor OUT's bits, and a command's effect
does not touch the fault record. -/
theorem everyStepKeepsFinalEqualsOut : Obligations.EveryStepKeepsFinalEqualsOut := by
  intro s t hfinal hrecord hstep
  obtain ⟨_, rest, ⟨c, o, k, hk, rfl⟩ | ⟨i, _, hpass, rfl⟩⟩ := step_takeFault_or_effect hstep
  · exact ⟨hfinal, takeFault_recordInv c o _ hk⟩
  · exact ⟨effect_keeps_finalInv hpass, by simpa [State.RecordInv] using hrecord⟩

/-! ### What is never observed -/

/-- The bits o in OUT's place, carried along as far as the outcome's state does not yield a payload. -/
def carryOut (o : Payload) : Host.Outcome State Fault Refusal → Host.Outcome State Fault Refusal
  | .next t => .next (if t.outValid then t else { t with out := o })
  | .fault r => .fault r
  | .refused r => .refused r

section carryOut

variable {s : State} (o : Payload)

theorem carryOut_next_of_valid (h : s.outValid = true) : carryOut o (.next s) = .next s := by
  simp [carryOut, h]

theorem carryOut_next_of_not_valid (h : s.outValid = false) :
    carryOut o (.next s) = .next { s with out := o } := by
  simp [carryOut, h]

/-- A fault is entered alike, whatever bits OUT holds. -/
theorem takeFault_withOut (c : Cause) (op : Octet) (k : Nat) :
    Host.Outcome.next (takeFault c op k { s with out := o }) = carryOut o (.next (takeFault c op k s)) :=
  rfl

theorem effect_withOut (i : Instr) (h : s.outValid = false) :
    Host.Outcome.next (i.effect { s with out := o }) = carryOut o (.next (i.effect s)) := by
  rcases effect_yieldsOut_or_carriesOut i with ⟨_, hyields⟩ | hcarries
  · rw [carryOut_next_of_valid o (hyields.outValid s), hyields.ignores_out]
  · rw [carryOut_next_of_not_valid o ((hcarries.outValid s).trans h), hcarries.carries_out]

theorem exec_withOut (i : Instr) (h : s.outValid = false) :
    exec i { s with out := o } = carryOut o (exec i s) := by
  rw [exec_eq_checks_effect, exec_eq_checks_effect, checks_withOut]
  cases hc : firstFailure (i.checks s) with
  | some c => rw [runChecked_of_some hc, runChecked_of_some hc, takeFault_withOut]
  | none => rw [runChecked_of_none hc, runChecked_of_none hc, effect_withOut o i h]

/-- While OUT_VALID = 0 a step from a state with other bits in OUT ends in the same way
(10_state.md R31). -/
theorem step_withOut (h : s.outValid = false) :
    step { s with out := o } = carryOut o (step s) := by
  rcases fetch_cases s with ⟨hf, _⟩ | ⟨hf, hd, _⟩ | ⟨op, rest, hf, hd, _⟩ | ⟨op, rest, hf, hd, _⟩ |
    ⟨i, rest, hf, hd, _⟩
  · rw [step_of_fault hf]
    exact step_of_fault hf
  · rw [step_of_incomplete hf hd]
    exact step_of_incomplete hf hd
  · rw [step_of_reservedHeader hf hd, ← takeFault_withOut]
    exact step_of_reservedHeader hf hd
  · rw [step_of_illegalOpcode hf hd, ← takeFault_withOut]
    exact step_of_illegalOpcode hf hd
  · rw [step_of_command hf hd, ← exec_withOut o i (by exact h)]
    exact step_of_command hf hd

/-- While OUT_VALID = 0 no register shows OUT's bits (10_state.md R31). -/
theorem readRegister_withOut (index : BitVec 4) (h : s.outValid = false) :
    readRegister index { s with out := o } = readRegister index s := by
  simp only [readRegister, outRegister_of_not_valid h,
    outRegister_of_not_valid (s := { s with out := o }) h]
  rfl

end carryOut

/-- Settles O19: no register reads the port, and a step from a state with other bits in OUT is the same
step with those bits carried along. -/
theorem hiddenStateIsNeverObserved : Obligations.HiddenStateIsNeverObserved := by
  refine ⟨fun _ _ _ => rfl, fun s o hvalid => ⟨fun k => readRegister_withOut o k hvalid,
    fun r hr => ?_, fun t ht => ?_⟩⟩
  · rw [step_withOut o hvalid, hr]; rfl
  · rw [step_withOut o hvalid, ht]
    exact ⟨carryOut_next_of_valid o, carryOut_next_of_not_valid o⟩

end Sys2Proof.Machine
end

section
/-! The command port and a command's two ends (20_memory.md): the decoder reads back the words of a
command (30_encoding.md R68), a command neither reads nor writes the port, it is total and atomic (R49),
the port's commands run in the order of their arrival (R51), and where the appended bits stand (R43). -/

namespace Sys2Proof

/-! ### Decoding the words of a command -/

@[simp] theorem headerReserved_setWidth (o : Octet) : headerReserved (o.setWidth 32) = 0 := by
  apply BitVec.eq_of_getLsbD_eq
  intro j hj
  simp [headerReserved]

@[simp] theorem headerOpcode_setWidth (o : Octet) : headerOpcode (o.setWidth 32) = o := by
  apply BitVec.eq_of_getLsbD_eq
  intro j hj
  simp [headerOpcode, hj]
  omega

/-- A well-formed command's operands each fit one word (R64). -/
theorem operands_lt {i : Instr} (h : i.wellFormed = true) {v : Nat} (hv : v ∈ i.operands) :
    v < 2 ^ 32 := by
  have hall : i.operands.all fitsWord = true := by
    cases i with
    | accAppend value width => simpa [Instr.wellFormed, Instr.operands] using h
    | accZeros n => simpa [Instr.wellFormed, Instr.operands] using h
    | _ => exact h
  exact of_decide_eq_true (List.all_eq_true.mp hall v hv)

/-- Behind the header, operand word k + 1 holds the command's operand k + 1 (R64). -/
theorem operandWord_operands {i : Instr} (h : i.wellFormed = true) (rest : List Word) {k : Nat}
    (hk : k < i.operands.length) :
    operandWord (i.operands.map (BitVec.ofNat 32) ++ rest) (k + 1) = i.operands.getD k 0 := by
  have hlt := operands_lt h (List.getElem_mem hk)
  simpa [operandWord, List.getElem?_append_left, hk] using hlt

/-- A row of the opcode map reads no operand past its count (R63). -/
theorem build_congr {row : OpcodeRow} (hrow : row ∈ opcodeMap) {f g : Nat → Nat}
    (hfg : ∀ k < row.count, f (k + 1) = g (k + 1)) : row.build f = row.build g := by
  have hall : ∀ r ∈ opcodeMap, (∀ k < r.count, f (k + 1) = g (k + 1)) → r.build f = r.build g := by
    simp +contextual [opcodeMap, Nat.forall_lt_succ_right]
  exact hall row hrow hfg

/-- The row of a command's OPCODE makes the command from its operands (R63, R65). -/
theorem lookupOpcode_build_operands (i : Instr) :
    (lookupOpcode i.opcode).map
      (fun row => (row.count, row.build fun k => i.operands.getD (k - 1) 0)) =
      some (i.operands.length, i) := by
  cases i <;> rfl

/-- The decoder reads a well-formed command back from its words, whatever words follow (R68). -/
theorem decode_encode {i : Instr} (h : i.wellFormed = true) (rest : List Word) :
    decode (encode i ++ rest) = .command i rest := by
  obtain ⟨row, hlookup, hrow⟩ := Option.map_eq_some_iff.mp (lookupOpcode_build_operands i)
  obtain ⟨hcount, hbuild⟩ := Prod.mk.inj hrow
  have hread : row.build (operandWord (i.operands.map (BitVec.ofNat 32) ++ rest)) = i := by
    rw [← hbuild]
    refine build_congr (lookupOpcode_mem hlookup).1 fun k hk => ?_
    rw [hbuild]
    exact operandWord_operands h rest (hcount ▸ hk)
  simp [decode, encode, hlookup, hcount, hread]

end Sys2Proof

namespace Sys2Proof.Machine

/-! ### The two ends of a command -/

/-- All that a command can do: the fault of its first failing check, or its effect
(40_accumulator.md R79). -/
theorem exec_takeFault_or_effect (i : Instr) (s : State) :
    (∃ c, firstFailure (i.checks s) = some c ∧
      exec i s = .next (takeFault c.cause i.opcode c.field s)) ∨
    (firstFailure (i.checks s) = none ∧ exec i s = .next (i.effect s)) := by
  rw [exec_eq_checks_effect]
  cases hc : firstFailure (i.checks s) with
  | some c => exact .inl ⟨c, rfl, runChecked_of_some hc⟩
  | none => exact .inr ⟨rfl, runChecked_of_none hc⟩

/-- Settles O51: the fault entry writes the record and OUT_VALID alone, and an effect writes neither the
record nor the port. -/
theorem commandsAreTotalAndAtomic : Obligations.CommandsAreTotalAndAtomic := by
  intro i s
  rcases exec_takeFault_or_effect i s with ⟨c, _, hexec⟩ | ⟨_, hexec⟩
  · exact ⟨_, hexec, takeFault_port .., fun _ => .inr ⟨c.cause.code, BitVec.ofNat 8 c.field, rfl⟩⟩
  · exact ⟨_, hexec, effect_port i s, fun hf => .inl (by simp [hf])⟩

/-! ### A command and the port -/

theorem checks_withPort (i : Instr) (s : State) (p : List Word) :
    i.checks { s with port := p } = i.checks s := by
  cases i <;> rfl

theorem effect_withPort (i : Instr) (s : State) (p : List Word) :
    i.effect { s with port := p } = { i.effect s with port := p } := by
  cases i <;> rfl

/-- A command does the same whatever words stand behind it at the port, and leaves them there (R51). -/
theorem exec_withPort (i : Instr) (s : State) :
    ∃ t : State, ∀ p, exec i { s with port := p } = .next { t with port := p } := by
  simp only [exec_eq_checks_effect]
  cases hc : firstFailure (i.checks s) with
  | some c =>
    exact ⟨takeFault c.cause i.opcode c.field s, fun p =>
      runChecked_of_some ((congrArg _ (checks_withPort i s p)).trans hc)⟩
  | none =>
    refine ⟨i.effect s, fun p => ?_⟩
    rw [runChecked_of_none ((congrArg _ (checks_withPort i s p)).trans hc), effect_withPort]

/-! ### Runs from the port -/

section run

variable {s t : State}

theorem runCommands_of_fault (i : Instr) (is : List Instr) (hf : s.fault = true) :
    runCommands (i :: is) s = .fault .halted := by
  simp [runCommands, hf]

theorem run_succ_of_fault (n : Nat) (hf : s.fault = true) :
    Sys2Proof.core.run (n + 1) s = .fault .halted := by
  simp [Host.Core.run, Sys2Proof.core, step_of_fault hf]

theorem run_succ_of_next (n : Nat) (h : step s = .next t) :
    Sys2Proof.core.run (n + 1) s = Sys2Proof.core.run n t := by
  simp [Host.Core.run, Sys2Proof.core, h]

end run

/-- Settles O13, by induction on the commands: a step consumes the words of the first command and leaves
those behind it, where the rest of the run finds them. -/
theorem portRunsCommandsInArrivalOrder : Obligations.PortRunsCommandsInArrivalOrder := by
  intro is rest
  induction is with
  | nil => exact fun _ _ => rfl
  | cons i is ih =>
    intro s hwf
    obtain hf | hf := Bool.eq_false_or_eq_true s.fault
    · exact (run_succ_of_fault is.length (by exact hf)).trans
        (runCommands_of_fault i is (by exact hf)).symm
    · obtain ⟨hi, his⟩ := List.forall_mem_cons.mp hwf
      obtain ⟨t, hexec⟩ := exec_withPort i s
      have hstep : step { s with port := (i :: is).flatMap encode ++ rest } =
          .next { t with port := is.flatMap encode ++ rest } := by
        rw [← hexec]
        refine step_of_command hf ?_
        rw [List.flatMap_cons, List.append_assoc]
        exact decode_encode hi _
      exact (run_succ_of_next is.length hstep).trans
        ((ih t his).trans (runCommands_cons (by exact hf) (hexec rest)).symm)

/-! ### Where the appended bits stand -/

theorem getElem?_bits (v : Nat) {w j : Nat} (hj : j < w) :
    (bits v w)[j]? = some (v.testBit (w - 1 - j)) := by
  induction w generalizing j with
  | zero => cases hj
  | succ w ih =>
    rw [bits_succ]
    cases j with
    | zero => rfl
    | succ j =>
      rw [List.getElem?_cons_succ, ih (Nat.lt_of_succ_lt_succ hj)]
      congr 2
      omega

theorem getElem?_zeros {n j : Nat} (hj : j < n) : (zeros n)[j]? = some false := by
  simp [zeros, hj]

theorem exec_of_checks_pass {i : Instr} {s : State} (h : ∀ c ∈ i.checks s, c.fails = false) :
    exec i s = .next (i.effect s) := by
  rw [exec_eq_checks_effect, runChecked_of_none ((firstFailure_eq_none _).mpr h)]

/-- A command that extends the accumulator by b leaves every earlier position and puts b behind them
(R43). -/
theorem extendAcc_positions {i : Instr} {s : State} {b : Payload} {f : Nat → Bool}
    (hexec : exec i s = .next (extendAcc b s)) (hb : ∀ j < b.length, b[j]? = some (f j)) :
    ∃ a : Payload, exec i s = .next { s with acc := a } ∧
      a.length = s.acc.length + b.length ∧
      (∀ p, p < s.acc.length → a[p]? = s.acc[p]?) ∧
      (∀ j, j < b.length → a[s.acc.length + j]? = some (f j)) := by
  refine ⟨s.acc ++ b, hexec, List.length_append, fun p hp => List.getElem?_append_left hp,
    fun j hj => ?_⟩
  rw [List.getElem?_append_right (Nat.le_add_right ..), Nat.add_sub_cancel_left]
  exact hb j hj

/-- Settles O24: with the accumulator open, a fitting value and room, no check fails, and the bits of
`bits` and `zeros` stand behind those the accumulator held. -/
theorem appendedBitsStandMsbFirst : Obligations.AppendedBitsStandMsbFirst := by
  intro s v w hopen hroom
  refine ⟨fun hw hv => ?_, ?_, exec_of_checks_pass ?_⟩
  · have hexec : exec (.accAppend v w) s = .next (extendAcc (bits v w) s) :=
      exec_of_checks_pass (by
        simp [Instr.checks, appendChecks, raiseIf, hopen, Config.appendMaxWidth, Config.maxPayload,
          hw, hv, hroom])
    simpa using extendAcc_positions hexec
      (fun j hj => getElem?_bits v (by simpa using hj))
  · have hexec : exec (.accZeros w) s = .next (extendAcc (zeros w) s) :=
      exec_of_checks_pass (by
        simp [Instr.checks, zerosChecks, raiseIf, hopen, Config.maxPayload, hroom])
    simpa using extendAcc_positions hexec (fun j hj => getElem?_zeros (by simpa using hj))
  · simp [Instr.checks, finalizeChecks, raiseIf, hopen]

end Sys2Proof.Machine
end

section
/-! The command format of 30_encoding.md: the words that decode to a command are its encoding (R61 to R65),
the opcode map (R63), what a step makes of the words at the port (R62), and the packing commands' checks
against the legal ranges of their operands (R65). -/

namespace Sys2Proof

open Machine

/-! ### Decoding from the header on -/

section decode

variable {hd : Word} {tl : List Word} {row : OpcodeRow}

theorem decode_of_reserved (hres : headerReserved hd ≠ 0) :
    decode (hd :: tl) = .reservedHeader (headerOpcode hd) tl := by
  exact if_pos hres

theorem decode_of_lookup_none (hres : headerReserved hd = 0)
    (hrow : lookupOpcode (headerOpcode hd) = none) :
    decode (hd :: tl) = .illegalOpcode (headerOpcode hd) tl := by
  simp [decode, hres, hrow]

theorem decode_of_short (hres : headerReserved hd = 0)
    (hrow : lookupOpcode (headerOpcode hd) = some row) (hlen : tl.length < row.count) :
    decode (hd :: tl) = .incomplete := by
  simp [decode, hres, hrow, hlen]

theorem decode_of_lookup_some (hres : headerReserved hd = 0)
    (hrow : lookupOpcode (headerOpcode hd) = some row) (hlen : row.count ≤ tl.length) :
    decode (hd :: tl) = .command (row.build (operandWord tl)) (tl.drop row.count) := by
  simp [decode, hres, hrow, hlen]

end decode

/-! ### The command that a row of the opcode map makes -/

/-- A row makes a command of its own OPCODE, whose operands are the row's operands in their order
(R63, R65). -/
theorem build_opcode_operands {row : OpcodeRow} (hrow : row ∈ opcodeMap) (f : Nat → Nat) :
    (row.build f).opcode = row.opcode ∧
      (row.build f).operands = (List.range row.count).map fun k => f (k + 1) := by
  have hall : ∀ r ∈ opcodeMap, (r.build f).opcode = r.opcode ∧
      (r.build f).operands = (List.range r.count).map fun k => f (k + 1) := by
    simp [opcodeMap, Instr.opcode, Instr.operands, List.range_succ]
  exact hall row hrow

theorem map_range_operandWord {tl : List Word} {n : Nat} (hlen : n ≤ tl.length) :
    ((List.range n).map fun k => operandWord tl (k + 1)) = (tl.take n).map fun w => w.toNat := by
  apply List.ext_getElem
  · simpa using hlen
  · intro k hk _
    have hk' : k < tl.length := by simp at hk; omega
    simp [operandWord, hk']

theorem wellFormed_eq_operands_all (i : Instr) : i.wellFormed = i.operands.all fitsWord := by
  cases i with
  | accAppend value width => simp [Instr.wellFormed, Instr.operands]
  | accZeros n => simp [Instr.wellFormed, Instr.operands]
  | _ => rfl

/-- Operands that are read from words fit words (R64). -/
theorem wellFormed_of_operands_eq_toNat {i : Instr} {ws : List Word}
    (h : i.operands = ws.map fun w => w.toNat) : i.wellFormed = true := by
  rw [wellFormed_eq_operands_all, h]
  simp only [List.all_map, List.all_eq_true]
  exact fun w _ => decide_eq_true w.isLt

/-- The command made from the words behind a header with the OPCODE o (R62 to R65). -/
theorem build_operandWord {o : Octet} {row : OpcodeRow} {tl : List Word}
    (hrow : lookupOpcode o = some row) (hlen : row.count ≤ tl.length) :
    (row.build (operandWord tl)).wellFormed = true ∧ (row.build (operandWord tl)).opcode = o ∧
      (row.build (operandWord tl)).operands = (tl.take row.count).map fun w => w.toNat := by
  obtain ⟨hmem, rfl⟩ := lookupOpcode_mem hrow
  obtain ⟨hopcode, hoperands⟩ := build_opcode_operands hmem (operandWord tl)
  rw [map_range_operandWord hlen] at hoperands
  exact ⟨wellFormed_of_operands_eq_toNat hoperands, hopcode, hoperands⟩

/-! ### Decoding and encoding are inverse -/

/-- Settles O6: the row of the command's OPCODE makes the command again from its own operand words. -/
theorem decodeOfEncodeIsTheCommand : Obligations.DecodeOfEncodeIsTheCommand :=
  fun _ rest h => decode_encode h rest

/-- A header without reserved bits is its OPCODE alone (R61). -/
theorem setWidth_headerOpcode {hd : Word} (hres : headerReserved hd = 0) :
    (headerOpcode hd).setWidth 32 = hd := by
  have hhigh : hd.toNat / 2 ^ 8 % 2 ^ 24 = 0 := by
    simpa [headerReserved, Nat.shiftRight_eq_div_pow] using congrArg BitVec.toNat hres
  apply BitVec.eq_of_toNat_eq
  simp [headerOpcode]
  omega

/-- Settles O7: the header holds nothing but the OPCODE of the command's row, and the operand words are
the operands that the row reads from them. -/
theorem decodedWordsAreTheEncoding : Obligations.DecodedWordsAreTheEncoding := by
  intro ws rest i h
  obtain ⟨hd, tl, row, rfl, hres, hrow, hlen, rfl, rfl⟩ := decode_command h
  obtain ⟨hwf, hopcode, hoperands⟩ := build_operandWord hrow hlen
  refine ⟨hwf, ?_⟩
  simp [encode, hopcode, hoperands, setWidth_headerOpcode hres, Function.comp_def]

/-! ### The opcode map -/

/-- A lookup tries the rows one after another. -/
theorem map_find?_opcode_cons {α : Type} (o : Octet) (f : OpcodeRow → α) (row : OpcodeRow)
    (rows : List OpcodeRow) :
    ((row :: rows).find? fun r => r.opcode == o).map f =
      if o = row.opcode then some (f row) else (rows.find? fun r => r.opcode == o).map f := by
  by_cases h : o = row.opcode
  · simp [h]
  · simp [h, Ne.symm h]

theorem encode_length (i : Instr) : (encode i).length = 1 + i.operands.length := by
  simp [encode, Nat.add_comm]

/-- Settles O8: the lookup row by row, the header words command by command, and that a decoded header is
the command's own from O7. -/
theorem opcodeMapOfR63 : Obligations.OpcodeMapOfR63 := by
  refine ⟨fun o => ?_, fun i => ⟨encode_length i, ?_⟩, fun ws rest i h => ?_⟩
  · simp only [lookupOpcode, opcodeMap, map_find?_opcode_cons, List.find?_nil, Option.map_none]
  · cases i <;> rfl
  · obtain ⟨_, rfl⟩ := decodedWordsAreTheEncoding ws rest i h
    refine ⟨rfl, ?_⟩
    rw [List.length_append, encode_length]
    omega

/-- Settles O9: the legal words are the encodings of the commands named, and neither of the last two
headers passes its check. -/
theorem writtenOutWordsDecode : Obligations.WrittenOutWordsDecode :=
  ⟨decode_encode (i := .accClear) rfl [],
    decode_encode (i := .accAppend 5 3) rfl [],
    decode_encode (i := .accZeros 15) rfl [4],
    decode_encode (i := .packD00TC ⟨49, 1, 1, 511, 9, 17, 3, 2, 26⟩) rfl [],
    decode_encode (i := .packD10SI ⟨48, 1000, 3, 1, 9, 2, 1, 39⟩) rfl [],
    decode_encode (i := .packRar ⟨1, 0x1234, 5, 9, 3, 0⟩) rfl [],
    decode_of_lookup_none (hd := 0x00000000) rfl rfl,
    decode_of_reserved (hd := 0x80000018) (by decide)⟩

end Sys2Proof

namespace Sys2Proof.Machine

/-! ### A step and the words at the port -/

/-- Settles O10: a decoded command is fetched with its words consumed, well-formed as it always is. -/
theorem stepRunsDecodedCommand : Obligations.StepRunsDecodedCommand :=
  fun _ _ _ hf hd _ => step_of_command hf hd

/-- Settles O11, by the decoder's cases: each gives the fetch, and so the step. -/
theorem headerDecodingOfR62 : Obligations.HeaderDecodingOfR62 := by
  intro s h ws hf hport
  refine ⟨fun hres => ?_, fun hres => ⟨fun hrow => ?_, fun row hrow =>
    ⟨fun hlen => ?_, fun hlen => ?_⟩⟩⟩
  · exact step_of_reservedHeader hf (hport ▸ decode_of_reserved hres)
  · exact step_of_illegalOpcode hf (hport ▸ decode_of_lookup_none hres hrow)
  · exact step_of_incomplete hf (hport ▸ decode_of_short hres hrow hlen)
  · obtain ⟨hwf, hopcode, hoperands⟩ := build_operandWord hrow hlen
    exact ⟨_, hwf, hopcode, hoperands,
      step_of_command hf (hport ▸ decode_of_lookup_some hres hrow hlen)⟩

/-! ### Checks that pass -/

@[simp] theorem raiseIf_fails_eq_false (p : Prop) [Decidable p] (c : Cause) (k : Nat) :
    (raiseIf p c k).fails = false ↔ ¬ p := by simp [raiseIf]

@[simp] theorem firstFailure_cons_eq_none (c : Check) (cs : List Check) :
    firstFailure (c :: cs) = none ↔ c.fails = false ∧ firstFailure cs = none := by
  simp [firstFailure_eq_none]

@[simp] theorem firstFailure_append_eq_none (cs ds : List Check) :
    firstFailure (cs ++ ds) = none ↔ firstFailure cs = none ∧ firstFailure ds = none := by
  simp only [firstFailure_eq_none, List.forall_mem_append]

@[simp] theorem checkField_passes (k v w : Nat) : (checkField k v w).fails = false ↔ v < 2 ^ w := by
  simp [checkField]

@[simp] theorem checkFreqSplit_passes (k hopFlag freq nRb h : Nat) :
    (checkFreqSplit k hopFlag freq nRb h).fails = false ↔
      (hopFlag = 1 → freq < 2 ^ (freqWidth nRb - h)) := by
  simp [checkFreqSplit]

@[simp] theorem checkHopCount_passes (k hopCount : Nat) :
    (checkHopCount k hopCount).fails = false ↔ hopCount = 0 ∨ hopCount = 2 ∨ hopCount = 4 := by
  simp [checkHopCount]
  omega

@[simp] theorem checkPsize_passes (k psize natSize : Nat) :
    (checkPsize k psize natSize).fails = false ↔ SizeLegal psize natSize := by
  simp [checkPsize, SizeLegal]

@[simp] theorem checkSmi_passes (k smi : Nat) :
    firstFailure (checkSmi k smi) = none ↔ smi = 1 ∨ smi = 2 ∨ smi = 3 := by
  simp [checkSmi]
  omega

@[simp] theorem checkTbs_passes (k tbs : Nat) : firstFailure (checkTbs k tbs) = none ↔ tbs < 3 := by
  simp [checkTbs]
  omega

theorem one_le_resourceValues {n : Nat} (h : 1 ≤ n) : 1 ≤ resourceValues n :=
  resourceValues_mono h

/-- The checks of N_RB and FREQ together are the legal range of both: with N_RB at least 1 the bound of
R106, said without subtraction, is R65's `T(N_RB) - 1`. -/
theorem freqLegal_iff_checks_pass (k nRb freq : Nat) :
    FreqLegal nRb freq ↔
      (checkNRb nRb).fails = false ∧ (checkFreq k freq nRb).fails = false := by
  have hpos := one_le_resourceValues (n := nRb)
  simp [FreqLegal, checkNRb, checkFreq]
  omega

/-- HOP_COUNT yields hopping bits exactly where it is not 0 (42_dci_0_0.md R120). -/
theorem hopBitsOfCount_eq_zero_iff {hopCount : Nat}
    (h : hopCount = 0 ∨ hopCount = 2 ∨ hopCount = 4) :
    hopBitsOfCount hopCount = 0 ↔ hopCount = 0 := by
  rcases h with rfl | rfl | rfl <;> decide

/-! ### The legal operands of each packing command -/

/-- The check that hopping has offset bits is R65's clause that hopping needs a HOP_COUNT other than 0;
the other checks are R65's ranges one by one, in another order. -/
theorem checksD00C_pass_iff (d : D00C) : firstFailure (checksD00C d) = none ↔ d.Legal := by
  have hbits := hopBitsOfCount_eq_zero_iff (hopCount := d.hopCount)
  simp [checksD00C, D00C.Legal, HopLegal, freqLegal_iff_checks_pass 5, natD00C]
  grind

theorem checksD00TC_pass_iff (d : D00TC) : firstFailure (checksD00TC d) = none ↔ d.Legal := by
  simp [checksD00TC, D00TC.Legal, HopLegal, freqLegal_iff_checks_pass 4, natD00TC]
  tauto

theorem checksD10C_pass_iff (d : D10C) : firstFailure (checksD10C d) = none ↔ d.Legal := by
  simp [checksD10C, D10C.Legal, freqLegal_iff_checks_pass 2, natD10C, and_assoc]

theorem checksD10P_pass_iff (d : D10P) : firstFailure (checksD10P d) = none ↔ d.Legal := by
  simp [checksD10P, D10P.Legal, freqLegal_iff_checks_pass 4, natD10P]
  tauto

theorem checksD10SI_pass_iff (d : D10SI) : firstFailure (checksD10SI d) = none ↔ d.Legal := by
  simp [checksD10SI, D10SI.Legal, freqLegal_iff_checks_pass 2, natD10SI, and_assoc]

theorem checksD10RA_pass_iff (d : D10RA) : firstFailure (checksD10RA d) = none ↔ d.Legal := by
  simp [checksD10RA, D10RA.Legal, freqLegal_iff_checks_pass 2, natD10RA, and_assoc]

theorem checksD10TC_pass_iff (d : D10TC) : firstFailure (checksD10TC d) = none ↔ d.Legal := by
  simp [checksD10TC, D10TC.Legal, freqLegal_iff_checks_pass 2, natD10TC, and_assoc]

theorem checksRar_pass_iff (d : RarGrant) : firstFailure (checksRar d) = none ↔ d.Legal := by
  simp [checksRar, RarGrant.Legal]

/-- No check of a packing command fails exactly where every operand is in its legal range (R65). -/
theorem checks_pass_iff_packLegal {i : Instr} {l : List Emission} (hl : i.packLayout = some l)
    (s : State) : firstFailure (i.checks s) = none ↔ i.PackLegal := by
  cases i with
  | packD00C d => exact checksD00C_pass_iff d
  | packD00TC d => exact checksD00TC_pass_iff d
  | packD10C d => exact checksD10C_pass_iff d
  | packD10P d => exact checksD10P_pass_iff d
  | packD10SI d => exact checksD10SI_pass_iff d
  | packD10RA d => exact checksD10RA_pass_iff d
  | packD10TC d => exact checksD10TC_pass_iff d
  | packRar d => exact checksRar_pass_iff d
  | _ => cases hl

/-- Settles O46: a command has its effect or takes the fault of its first failing check, and a packing
command's checks all pass exactly on legal operands. -/
theorem packersCompleteExactlyOnLegalOperands :
    Obligations.PackersCompleteExactlyOnLegalOperands := by
  intro i l hl
  refine ⟨fun hlegal s => ?_, fun hillegal s => ?_⟩
  · rw [exec_eq_checks_effect, runChecked_of_none ((checks_pass_iff_packLegal hl s).mpr hlegal),
      effect_of_packLayout hl]
    rfl
  · rcases exec_takeFault_or_effect i s with ⟨c, _, hexec⟩ | ⟨hpass, _⟩
    · exact ⟨c.cause.code, BitVec.ofNat 8 c.field, hexec⟩
    · exact absurd ((checks_pass_iff_packLegal hl s).mp hpass) hillegal

end Sys2Proof.Machine
end

section
/-! The accumulator commands against 40_accumulator.md R80 to R83: each command is a row of checks, tried
in the rule's order, and then its effect (R79). -/

namespace Sys2Proof.Machine

/-- Settles O20: no check stands before the effect. -/
theorem accClearOfR80 : Obligations.AccClearOfR80 :=
  ⟨rfl, fun s => exec_of_checks_pass (i := .accClear) (s := s) (List.forall_mem_nil _)⟩

/-- Settles O21: the four checks, each tried where those before it pass. -/
theorem accAppendOfR81 : Obligations.AccAppendOfR81 := by
  refine fun value width s => ⟨rfl, ?_⟩
  rw [exec_eq_checks_effect]
  refine runChecked_raiseIf .rfl rfl fun _hopen => ?_
  refine runChecked_raiseIf .rfl rfl fun _hwidth => ?_
  refine runChecked_raiseIf .rfl rfl fun _hvalue => ?_
  exact runChecked_raiseIf .rfl rfl fun _hroom => runChecked_nil

/-- Settles O22: the two checks, the second tried where the accumulator is open. -/
theorem accZerosOfR82 : Obligations.AccZerosOfR82 := by
  refine fun n s => ⟨rfl, ?_⟩
  rw [exec_eq_checks_effect]
  refine runChecked_raiseIf .rfl rfl fun _hopen => ?_
  exact runChecked_raiseIf .rfl rfl fun _hroom => runChecked_nil

/-- Settles O23: one check, and OUT takes the accumulator where it is open. -/
theorem accFinalizeOfR83 : Obligations.AccFinalizeOfR83 := by
  refine ⟨rfl, fun s => ?_⟩
  rw [exec_eq_checks_effect]
  exact runChecked_raiseIf .rfl rfl fun _hopen => runChecked_nil

end Sys2Proof.Machine
end

section
/-! Gating (41_packer_common.md R109, R111): an operand that a gate leaves unused stands in no line of the
layout, so a legal command with another legal value of it commits the same payload. -/

namespace Sys2Proof.Machine

/-- Legal packing commands with the same layout do the same from every state. -/
theorem exec_eq_of_packLayout_eq {i j : Instr} {l : List Emission} {s : State}
    (hi : i.packLayout = some l) (hj : j.packLayout = some l) (hil : i.PackLegal)
    (hjl : j.PackLegal) : exec i s = exec j s :=
  ((packersCompleteExactlyOnLegalOperands i l hi).1 hil s).trans
    ((packersCompleteExactlyOnLegalOperands j l hj).1 hjl s).symm

/-! ### Zero is a legal value -/

theorem freqLegal_zero {nRb freq : Nat} (h : FreqLegal nRb freq) : FreqLegal nRb 0 := by
  obtain ⟨hlo, hhi, _⟩ := h
  exact ⟨hlo, hhi, Nat.zero_le _⟩

theorem hopLegal_zero_hopOffset {hopFlag hopOffset freq width h : Nat}
    (hop : HopLegal hopFlag hopOffset freq width h) : HopLegal hopFlag 0 freq width h := by
  obtain ⟨hflag, _, hsplit⟩ := hop
  exact ⟨hflag, Nat.two_pow_pos h, hsplit⟩

theorem d10P_legal_zero_scheduling {d : D10P} (h : d.Legal) :
    D10P.Legal { d with freq := 0, time := 0, vrb := 0, mcs := 0, tbs := 0 } := by
  obtain ⟨hfreq, hsmi, hsm, _, _, _, _, hsize⟩ := h
  exact ⟨freqLegal_zero hfreq, hsmi, hsm, Nat.succ_pos _, Nat.succ_pos _, Nat.succ_pos _,
    Nat.succ_pos _, hsize⟩

theorem d10P_legal_zero_sm {d : D10P} (h : d.Legal) : D10P.Legal { d with sm := 0 } := by
  obtain ⟨hfreq, hsmi, _, hrest⟩ := h
  exact ⟨hfreq, hsmi, Nat.succ_pos _, hrest⟩

theorem d00C_legal_zero_hopOffset {d : D00C} (h : d.Legal) : D00C.Legal { d with hopOffset := 0 } := by
  obtain ⟨hfreq, hcount, hconfig, hhop, hrest⟩ := h
  exact ⟨hfreq, hcount, hconfig, hopLegal_zero_hopOffset hhop, hrest⟩

theorem d00C_legal_zero_sul {d : D00C} (h : d.Legal) : D00C.Legal { d with sul := 0 } := by
  obtain ⟨hfreq, hcount, hconfig, hhop, htime, hmcs, hndi, hrv, hharq, htpc, hpresent, _, hsize⟩ := h
  exact ⟨hfreq, hcount, hconfig, hhop, htime, hmcs, hndi, hrv, hharq, htpc, hpresent,
    Nat.succ_pos _, hsize⟩

theorem d00TC_legal_zero_hopOffset {d : D00TC} (h : d.Legal) :
    D00TC.Legal { d with hopOffset := 0 } := by
  obtain ⟨hfreq, hhop, hrest⟩ := h
  exact ⟨hfreq, hopLegal_zero_hopOffset hhop, hrest⟩

/-! ### What a closed gate leaves of a layout -/

/-- 42_dci_0_0.md R121: without hopping the whole field is FREQ. -/
theorem freqField_of_hopFlag_zero {hopFlag : Nat} (hflag : hopFlag = 0) (hopOffset freq width h : Nat) :
    freqField hopFlag hopOffset freq width h = [.emit freq width] :=
  if_neg (by omega)

theorem layoutD00C_withHopOffset {d : D00C} (hflag : d.hopFlag = 0) (n : Nat) :
    layoutD00C { d with hopOffset := n } = layoutD00C d := by
  simp only [layoutD00C, natD00C, freqField_of_hopFlag_zero hflag]

theorem layoutD00TC_withHopOffset {d : D00TC} (hflag : d.hopFlag = 0) (n : Nat) :
    layoutD00TC { d with hopOffset := n } = layoutD00TC d := by
  simp only [layoutD00TC, natD00TC, freqField_of_hopFlag_zero hflag]

/-- 42_dci_0_0.md R122: without SUL_PRESENT the layout ends with the padding. -/
theorem layoutD00C_withSul {d : D00C} (hpresent : d.sulPresent = 0) (n : Nat) :
    layoutD00C { d with sul := n } = layoutD00C d := by
  have hgate : ¬ d.sulPresent = 1 := by omega
  simp only [layoutD00C, natD00C, if_neg hgate]

/-- 43_dci_1_0.md R142: SMI = 2 is the short message alone, with zeros for the scheduling fields. -/
theorem layoutD10P_withScheduling {d : D10P} (hsmi : d.smi = 2) (freq time vrb mcs tbs : Nat) :
    layoutD10P { d with freq := freq, time := time, vrb := vrb, mcs := mcs, tbs := tbs } =
      layoutD10P d := by
  have hgate : ¬ (d.smi = 1 ∨ d.smi = 3) := by omega
  simp only [layoutD10P, natD10P, if_neg hgate]

/-- 43_dci_1_0.md R142: SMI = 1 is the scheduling fields alone, with zeros for the short message. -/
theorem layoutD10P_withSm {d : D10P} (hsmi : d.smi = 1) (n : Nat) :
    layoutD10P { d with sm := n } = layoutD10P d := by
  have hgate : ¬ (d.smi = 2 ∨ d.smi = 3) := by omega
  simp only [layoutD10P, natD10P, if_neg hgate]

/-- Settles O50: in each clause both commands are legal and, the gate being closed, have one layout. -/
theorem gatedOperandsAreNotEmitted : Obligations.GatedOperandsAreNotEmitted := by
  refine fun s => ⟨fun d hd hsmi => ?_, fun d hd hsmi => ?_, fun d hd hflag => ?_,
    fun d hd hpresent => ?_, fun d hd hflag => ?_⟩
  · exact exec_eq_of_packLayout_eq rfl (congrArg some (layoutD10P_withScheduling hsmi 0 0 0 0 0))
      hd (d10P_legal_zero_scheduling hd)
  · exact exec_eq_of_packLayout_eq rfl (congrArg some (layoutD10P_withSm hsmi 0))
      hd (d10P_legal_zero_sm hd)
  · exact exec_eq_of_packLayout_eq rfl (congrArg some (layoutD00C_withHopOffset hflag 0))
      hd (d00C_legal_zero_hopOffset hd)
  · exact exec_eq_of_packLayout_eq rfl (congrArg some (layoutD00C_withSul hpresent 0))
      hd (d00C_legal_zero_sul hd)
  · exact exec_eq_of_packLayout_eq rfl (congrArg some (layoutD00TC_withHopOffset hflag 0))
      hd (d00TC_legal_zero_hopOffset hd)

end Sys2Proof.Machine
end

section
/-! The format 0_0 packing commands against 42_dci_0_0.md R120 to R125: how wide the hopping offset is, the
bits each layout emits, and each command as its row of checks, tried in the rule's order, and its commit. -/

namespace Sys2Proof.Machine

/-! ### The hopping offset and the frequency field -/

/-- Settles O27: the three counts of R120, and R124's boundary, said by the last N_RB of one bit. -/
theorem hoppingOffsetWidths : Obligations.HoppingOffsetWidths :=
  ⟨rfl, rfl, rfl, fun _ _ _ => if_congr Nat.lt_succ_iff rfl rfl⟩

/-- 42_dci_0_0.md R121: the offset's bits stand before those of FREQ, which take the rest of the field. -/
theorem emitAll_freqField (hopFlag hopOffset freq width h : Nat) :
    emitAll (freqField hopFlag hopOffset freq width h) =
      if hopFlag = 1 then bits hopOffset h ++ bits freq (width - h) else bits freq width := by
  unfold freqField
  split <;> simp

/-- The FREQ bound of R106 as a rule words it: subtraction changes nothing once N_RB has passed R103. -/
theorem resourceValues_le_iff {nRb freq : Nat} (hnRb : ¬ (nRb < 1 ∨ nRb > Config.maxNRb)) :
    resourceValues nRb ≤ freq ↔ freq > resourceValues nRb - 1 := by
  have hpos : 1 ≤ resourceValues nRb := one_le_resourceValues (by omega)
  omega

/-! ### The payloads -/

theorem emitAll_layoutD00C (d : D00C) :
    emitAll (layoutD00C d) = bits 0 1
      ++ (if d.hopFlag = 1 then
            bits d.hopOffset (hopBitsOfCount d.hopCount)
              ++ bits d.freq (freqWidth d.nRb - hopBitsOfCount d.hopCount)
          else bits d.freq (freqWidth d.nRb))
      ++ bits d.time 4 ++ bits d.hopFlag 1 ++ bits d.mcs 5 ++ bits d.ndi 1 ++ bits d.rv 2
      ++ bits d.harq 4 ++ bits d.tpc 2 ++ zeros (d.psize - natD00C d)
      ++ (if d.sulPresent = 1 then bits d.sul 1 else []) := by
  have hsul : emitAll (if d.sulPresent = 1 then [.emit d.sul 1] else []) =
      if d.sulPresent = 1 then bits d.sul 1 else [] := by
    split <;> simp
  simp only [layoutD00C, emitAll_append, emitAll_cons, emitAll_nil, emit_payload, emitz_payload,
    emitAll_freqField, hsul, List.append_assoc, List.append_nil]

theorem emitAll_layoutD00TC (d : D00TC) :
    emitAll (layoutD00TC d) = bits 0 1
      ++ (if d.hopFlag = 1 then
            bits d.hopOffset (hopBitsOfNRb d.nRb)
              ++ bits d.freq (freqWidth d.nRb - hopBitsOfNRb d.nRb)
          else bits d.freq (freqWidth d.nRb))
      ++ bits d.time 4 ++ bits d.hopFlag 1 ++ bits d.mcs 5 ++ bits d.rv 2 ++ bits d.tpc 2
      ++ zeros (d.psize - natD00TC d) := by
  simp only [layoutD00TC, emitAll_append, emitAll_cons, emitAll_nil, emit_payload, emitz_payload,
    emitAll_freqField, List.append_assoc, List.append_nil]

/-! ### The commands -/

/-- A packing command whose checks have passed commits its layout, given by the bits it emits. -/
theorem runChecked_nil_commit {o : Octet} {p q : Payload} (h : p = q) (s : State) :
    runChecked o [] (commit p) s = .next (packed q s) := by
  rw [runChecked_nil, h]
  rfl

/-- Settles O29: the seventeen checks, each tried where those before it pass; only the FREQ bound is worded
otherwise in the rule than in the model, and it uses that N_RB has passed. -/
theorem packD00COfR122 : Obligations.PackD00COfR122 := by
  refine fun d s => ⟨rfl, ?_⟩
  rw [exec_eq_checks_effect]
  refine runChecked_raiseIf .rfl rfl fun hnRb => ?_
  refine runChecked_raiseIf .rfl rfl fun _hopCount => ?_
  refine runChecked_raiseIf .rfl rfl fun _hopFlag => ?_
  refine runChecked_raiseIf .rfl rfl fun _hopConfigured => ?_
  refine runChecked_raiseIf .rfl rfl fun _hopRoom => ?_
  refine runChecked_raiseIf .rfl rfl fun _hopOffset => ?_
  refine runChecked_raiseIf (resourceValues_le_iff hnRb) rfl fun _hfreq => ?_
  refine runChecked_raiseIf .rfl rfl fun _hsplit => ?_
  refine runChecked_raiseIf .rfl rfl fun _htime => ?_
  refine runChecked_raiseIf .rfl rfl fun _hmcs => ?_
  refine runChecked_raiseIf .rfl rfl fun _hndi => ?_
  refine runChecked_raiseIf .rfl rfl fun _hrv => ?_
  refine runChecked_raiseIf .rfl rfl fun _hharq => ?_
  refine runChecked_raiseIf .rfl rfl fun _htpc => ?_
  refine runChecked_raiseIf .rfl rfl fun _hsulPresent => ?_
  refine runChecked_raiseIf .rfl rfl fun _hsul => ?_
  exact runChecked_raiseIf .rfl rfl fun _hpsize => runChecked_nil_commit (emitAll_layoutD00C d) s

/-- Settles O31: the eleven checks as for PACK.D00C, without one that hopping is configured, since the
hopping width of R124 is never 0. -/
theorem packD00TCOfR125 : Obligations.PackD00TCOfR125 := by
  refine fun d s => ⟨rfl, ?_⟩
  rw [exec_eq_checks_effect]
  refine runChecked_raiseIf .rfl rfl fun hnRb => ?_
  refine runChecked_raiseIf .rfl rfl fun _hopFlag => ?_
  refine runChecked_raiseIf .rfl rfl fun _hopRoom => ?_
  refine runChecked_raiseIf .rfl rfl fun _hopOffset => ?_
  refine runChecked_raiseIf (resourceValues_le_iff hnRb) rfl fun _hfreq => ?_
  refine runChecked_raiseIf .rfl rfl fun _hsplit => ?_
  refine runChecked_raiseIf .rfl rfl fun _htime => ?_
  refine runChecked_raiseIf .rfl rfl fun _hmcs => ?_
  refine runChecked_raiseIf .rfl rfl fun _hrv => ?_
  refine runChecked_raiseIf .rfl rfl fun _htpc => ?_
  exact runChecked_raiseIf .rfl rfl fun _hpsize => runChecked_nil_commit (emitAll_layoutD00TC d) s

end Sys2Proof.Machine
end

section
/-! The format 1_0 packing commands against 43_dci_1_0.md R140 to R149: the checks that several of them
share, the bits each layout emits, and each command as its row of checks, tried in the rule's order, and its
commit. -/

namespace Sys2Proof.Machine

/-! ### Checks that several commands share -/

section shared

variable {o : Octet} {cs : List Check} {f : State → State} {s v : State}

/-- The four operands that stand side by side in every 1_0 command, from operand k on: FREQ, with the bound
of R106 as the rules word it, TIME, VRB and MCS. -/
theorem runChecked_assignment {k nRb freq time vrb mcs : Nat}
    (hnRb : ¬ (nRb < 1 ∨ nRb > Config.maxNRb)) (hv : runChecked o cs f s = .next v) :
    runChecked o (checkFreq k freq nRb :: checkField (k + 1) time 4 :: checkField (k + 2) vrb 1 ::
        checkField (k + 3) mcs 5 :: cs) f s = .next (
      if freq > resourceValues nRb - 1 then takeFault .freqRange o k s
      else if time ≥ 16 then takeFault .fieldRange o (k + 1) s
      else if vrb ≥ 2 then takeFault .fieldRange o (k + 2) s
      else if mcs ≥ 32 then takeFault .fieldRange o (k + 3) s
      else v) := by
  refine runChecked_raiseIf (resourceValues_le_iff hnRb) rfl fun _hfreq => ?_
  refine runChecked_raiseIf .rfl rfl fun _htime => ?_
  refine runChecked_raiseIf .rfl rfl fun _hvrb => ?_
  exact runChecked_raiseIf .rfl rfl fun _hmcs => hv

/-- The operands that PACK.D10C and PACK.D10TC have for the process: NDI, RV and HARQ. -/
theorem runChecked_process {k ndi rv harq : Nat} (hv : runChecked o cs f s = .next v) :
    runChecked o (checkField k ndi 1 :: checkField (k + 1) rv 2 :: checkField (k + 2) harq 4 :: cs) f s =
      .next (
        if ndi ≥ 2 then takeFault .fieldRange o k s
        else if rv ≥ 4 then takeFault .fieldRange o (k + 1) s
        else if harq ≥ 16 then takeFault .fieldRange o (k + 2) s
        else v) := by
  refine runChecked_raiseIf .rfl rfl fun _hndi => ?_
  refine runChecked_raiseIf .rfl rfl fun _hrv => ?_
  exact runChecked_raiseIf .rfl rfl fun _hharq => hv

/-- The operands that PACK.D10C and PACK.D10TC have for the uplink control channel: TPC, PRI and K1. -/
theorem runChecked_control {k tpc pri k1 : Nat} (hv : runChecked o cs f s = .next v) :
    runChecked o (checkField k tpc 2 :: checkField (k + 1) pri 3 :: checkField (k + 2) k1 3 :: cs) f s =
      .next (
        if tpc ≥ 4 then takeFault .fieldRange o k s
        else if pri ≥ 8 then takeFault .fieldRange o (k + 1) s
        else if k1 ≥ 8 then takeFault .fieldRange o (k + 2) s
        else v) := by
  refine runChecked_raiseIf .rfl rfl fun _htpc => ?_
  refine runChecked_raiseIf .rfl rfl fun _hpri => ?_
  exact runChecked_raiseIf .rfl rfl fun _hk1 => hv

/-- The two checks of TBS in the order of R107: a value beyond the field, then the reserved one. -/
theorem runChecked_tbs {k tbs : Nat} (hv : runChecked o cs f s = .next v) :
    runChecked o (checkTbs k tbs ++ cs) f s = .next (
      if tbs > 3 then takeFault .fieldRange o k s
      else if tbs = 3 then takeFault .reservedValue o k s
      else v) := by
  refine runChecked_raiseIf .rfl rfl fun _hfits => ?_
  exact runChecked_raiseIf .rfl rfl fun _hreserved => hv

/-- PSIZE is every command's last check (R108); behind it stands the commit of the layout's bits. -/
theorem runChecked_psize_commit {k psize nat : Nat} {p q : Payload} (hbits : p = q) :
    runChecked o [checkPsize k psize nat] (commit p) s = .next (
      if psize < nat ∨ psize > Config.maxPayload then takeFault .payloadSize o k s
      else packed q s) :=
  runChecked_raiseIf .rfl rfl fun _hpsize => runChecked_nil_commit hbits s

end shared

/-! ### The payloads -/

theorem emitAll_layoutD10C (d : D10C) :
    emitAll (layoutD10C d) = bits 1 1 ++ bits d.freq (freqWidth d.nRb) ++ bits d.time 4
      ++ bits d.vrb 1 ++ bits d.mcs 5 ++ bits d.ndi 1 ++ bits d.rv 2 ++ bits d.harq 4
      ++ bits d.dai 2 ++ bits d.tpc 2 ++ bits d.pri 3 ++ bits d.k1 3
      ++ zeros (d.psize - natD10C d) := by
  simp only [layoutD10C, emitAll_cons, emitAll_nil, emit_payload, emitz_payload, List.append_assoc,
    List.append_nil]

/-- 43_dci_1_0.md R142: each gate chooses between the bits of its fields and as many zeros. -/
theorem emitAll_layoutD10P (d : D10P) :
    emitAll (layoutD10P d) = bits d.smi 2
      ++ (if d.smi = 2 ∨ d.smi = 3 then bits d.sm 8 else zeros 8)
      ++ (if d.smi = 1 ∨ d.smi = 3 then
            bits d.freq (freqWidth d.nRb) ++ bits d.time 4 ++ bits d.vrb 1 ++ bits d.mcs 5
              ++ bits d.tbs 2
          else zeros (freqWidth d.nRb + 12))
      ++ zeros 6 ++ zeros (d.psize - natD10P d) := by
  simp only [layoutD10P, emitAll_append, apply_ite emitAll, emitAll_cons, emitAll_nil, emit_payload,
    emitz_payload, List.append_assoc, List.append_nil]

theorem emitAll_layoutD10SI (d : D10SI) :
    emitAll (layoutD10SI d) = bits d.freq (freqWidth d.nRb) ++ bits d.time 4 ++ bits d.vrb 1
      ++ bits d.mcs 5 ++ bits d.rv 2 ++ bits d.sii 1 ++ zeros 15 ++ zeros (d.psize - natD10SI d) := by
  simp only [layoutD10SI, emitAll_cons, emitAll_nil, emit_payload, emitz_payload, List.append_assoc,
    List.append_nil]

theorem emitAll_layoutD10RA (d : D10RA) :
    emitAll (layoutD10RA d) = bits d.freq (freqWidth d.nRb) ++ bits d.time 4 ++ bits d.vrb 1
      ++ bits d.mcs 5 ++ bits d.tbs 2 ++ zeros 16 ++ zeros (d.psize - natD10RA d) := by
  simp only [layoutD10RA, emitAll_cons, emitAll_nil, emit_payload, emitz_payload, List.append_assoc,
    List.append_nil]

theorem emitAll_layoutD10TC (d : D10TC) :
    emitAll (layoutD10TC d) = bits 1 1 ++ bits d.freq (freqWidth d.nRb) ++ bits d.time 4
      ++ bits d.vrb 1 ++ bits d.mcs 5 ++ bits d.ndi 1 ++ bits d.rv 2 ++ bits d.harq 4
      ++ bits d.tpc 2 ++ bits d.pri 3 ++ bits d.k1 3 ++ zeros (d.psize - natD10TC d) := by
  simp only [layoutD10TC, emitAll_cons, emitAll_nil, emit_payload, emitz_payload, List.append_assoc,
    List.append_nil]

/-! ### The commands -/

/-- Settles O33: the checks in operand order, DAI between the process and the control operands. -/
theorem packD10COfR140 : Obligations.PackD10COfR140 := by
  refine fun d s => ⟨rfl, ?_⟩
  rw [exec_eq_checks_effect]
  refine runChecked_raiseIf .rfl rfl fun hnRb => ?_
  refine runChecked_assignment hnRb ?_
  refine runChecked_process ?_
  refine runChecked_raiseIf .rfl rfl fun _hdai => ?_
  refine runChecked_control ?_
  exact runChecked_psize_commit (emitAll_layoutD10C d)

/-- Settles O35: SMI is checked against its field and then against its reserved value (R107), and the short
message and the scheduling operands are checked whether SMI gates them or not (R109). -/
theorem packD10POfR143 : Obligations.PackD10POfR143 := by
  refine fun d s => ⟨rfl, ?_⟩
  rw [exec_eq_checks_effect]
  refine runChecked_raiseIf .rfl rfl fun hnRb => ?_
  refine runChecked_raiseIf .rfl rfl fun _hsmiFits => ?_
  refine runChecked_raiseIf .rfl rfl fun _hsmiReserved => ?_
  refine runChecked_raiseIf .rfl rfl fun _hsm => ?_
  refine runChecked_assignment hnRb ?_
  refine runChecked_tbs ?_
  exact runChecked_psize_commit (emitAll_layoutD10P d)

/-- Settles O37: behind the shared operands stand RV and the system information indicator. -/
theorem packD10SIOfR145 : Obligations.PackD10SIOfR145 := by
  refine fun d s => ⟨rfl, ?_⟩
  rw [exec_eq_checks_effect]
  refine runChecked_raiseIf .rfl rfl fun hnRb => ?_
  refine runChecked_assignment hnRb ?_
  refine runChecked_raiseIf .rfl rfl fun _hrv => ?_
  refine runChecked_raiseIf .rfl rfl fun _hsii => ?_
  exact runChecked_psize_commit (emitAll_layoutD10SI d)

/-- Settles O39: behind the shared operands stands TBS. -/
theorem packD10RAOfR147 : Obligations.PackD10RAOfR147 := by
  refine fun d s => ⟨rfl, ?_⟩
  rw [exec_eq_checks_effect]
  refine runChecked_raiseIf .rfl rfl fun hnRb => ?_
  refine runChecked_assignment hnRb ?_
  refine runChecked_tbs ?_
  exact runChecked_psize_commit (emitAll_layoutD10RA d)

/-- Settles O41: the checks of PACK.D10C without that of DAI. -/
theorem packD10TCOfR149 : Obligations.PackD10TCOfR149 := by
  refine fun d s => ⟨rfl, ?_⟩
  rw [exec_eq_checks_effect]
  refine runChecked_raiseIf .rfl rfl fun hnRb => ?_
  refine runChecked_assignment hnRb ?_
  refine runChecked_process ?_
  refine runChecked_control ?_
  exact runChecked_psize_commit (emitAll_layoutD10TC d)

end Sys2Proof.Machine
end

section
/-! PACK.D10TC as PACK.D10C without the downlink assignment index (43_dci_1_0.md R149, R150): the two
layouts differ by one line, and so the two payloads by the positions of that line's bits. -/

namespace Sys2Proof

open Machine

/-- The operands of PACK.D10TC with a downlink assignment index and its two bits of room, as operands of
PACK.D10C. -/
def D10TC.withDai (d : D10TC) (dai : Nat) : D10C :=
  ⟨d.nRb, d.freq, d.time, d.vrb, d.mcs, d.ndi, d.rv, d.harq, dai, d.tpc, d.pri, d.k1, d.psize + 2⟩

theorem D10TC.withDai_legal {d : D10TC} {dai : Nat} (hd : d.Legal) (hdai : dai < 4)
    (hroom : d.psize + 2 ≤ Config.maxPayload) : (d.withDai dai).Legal := by
  obtain ⟨hfreq, htime, hvrb, hmcs, hndi, hrv, hharq, htpc, hpri, hk1, hnat, _⟩ := hd
  have hsize : SizeLegal (d.psize + 2) (28 + freqWidth d.nRb) := ⟨by omega, hroom⟩
  exact ⟨hfreq, htime, hvrb, hmcs, hndi, hrv, hharq, hdai, htpc, hpri, hk1, hsize⟩

end Sys2Proof

namespace Sys2Proof.Machine

/-- Cutting a middle piece out of a payload by its positions. -/
theorem take_append_drop_of_middle {a b c : Payload} {n m : Nat} (hn : a.length = n)
    (hm : n + b.length = m) : (a ++ b ++ c).take n ++ (a ++ b ++ c).drop m = a ++ c := by
  rw [List.drop_left' (by rw [List.length_append, hn, hm]), List.append_assoc, List.take_left' hn]

/-- The line of the downlink assignment index stands behind the first eight lines of PACK.D10TC's layout;
the padding is the same, since both PSIZE and the natural size grow by two. -/
theorem layoutD10C_withDai (d : D10TC) (dai : Nat) :
    layoutD10C (d.withDai dai) =
      (layoutD10TC d).take 8 ++ [.emit dai 2] ++ (layoutD10TC d).drop 8 := by
  have hpad : d.psize + 2 - natD10C (d.withDai dai) = d.psize - natD10TC d := by
    simp only [natD10C, natD10TC, D10TC.withDai]
    omega
  simp [layoutD10C, layoutD10TC, ← hpad, D10TC.withDai]

theorem emitAll_layoutD10TC_take_length (d : D10TC) :
    (emitAll ((layoutD10TC d).take 8)).length = freqWidth d.nRb + 18 := by
  simp [layoutD10TC]
  omega

/-- The payload of PACK.D10TC is that of PACK.D10C without the index's two positions. -/
theorem emitAll_layoutD10TC_eq_cut (d : D10TC) (dai : Nat) :
    emitAll (layoutD10TC d) =
      (emitAll (layoutD10C (d.withDai dai))).take (freqWidth d.nRb + 18) ++
        (emitAll (layoutD10C (d.withDai dai))).drop (freqWidth d.nRb + 20) := by
  have hdai : freqWidth d.nRb + 18 + (emitAll [.emit dai 2]).length = freqWidth d.nRb + 20 := by simp
  rw [layoutD10C_withDai, emitAll_append, emitAll_append,
    take_append_drop_of_middle (emitAll_layoutD10TC_take_length d) hdai, ← emitAll_append,
    List.take_append_drop]

/-- Settles O43: both commands are legal, so each commits its layout's bits. -/
theorem d10TCIsD10CWithoutDai : Obligations.D10TCIsD10CWithoutDai := by
  intro d dai s hd hdai hroom
  have hlegal : (d.withDai dai).Legal := D10TC.withDai_legal hd hdai hroom
  exact ⟨_, _,
    (packersCompleteExactlyOnLegalOperands (.packD10C (d.withDai dai)) _ rfl).1 hlegal s,
    (packersCompleteExactlyOnLegalOperands (.packD10TC d) _ rfl).1 hd s,
    emitAll_layoutD10TC_eq_cut d dai⟩

end Sys2Proof.Machine
end

section
/-! The RAR UL grant command against 44_rar.md R170: the bits its fixed layout emits, and the command as its
row of field checks and its commit. -/

namespace Sys2Proof.Machine

theorem emitAll_layoutRar (d : RarGrant) :
    emitAll (layoutRar d) = bits d.hopFlag 1 ++ bits d.freq 14 ++ bits d.time 4 ++ bits d.mcs 4
      ++ bits d.tpc 3 ++ bits d.csi 1 := by
  simp only [layoutRar, emitAll_cons, emitAll_nil, emit_payload, List.append_assoc, List.append_nil]

/-- Settles O44: each operand is checked against the width of its field alone, in operand order; there is
neither an N_RB nor a PSIZE operand, so the commit of the layout stands right behind the last field. -/
theorem packRarOfR170 : Obligations.PackRarOfR170 := by
  refine fun d s => ⟨rfl, ?_⟩
  rw [exec_eq_checks_effect]
  refine runChecked_raiseIf .rfl rfl fun _hopFlag => ?_
  refine runChecked_raiseIf .rfl rfl fun _hfreq => ?_
  refine runChecked_raiseIf .rfl rfl fun _htime => ?_
  refine runChecked_raiseIf .rfl rfl fun _hmcs => ?_
  refine runChecked_raiseIf .rfl rfl fun _htpc => ?_
  exact runChecked_raiseIf .rfl rfl fun _hcsi => runChecked_nil_commit (emitAll_layoutRar d) s

end Sys2Proof.Machine
end

section
/-! The fault state of 60_exceptions.md: only reset leaves it (R184), what its entry keeps (R183), and which
record each cause is entered with (R181). -/

namespace Sys2Proof

open Machine

/-! ### The OPCODE that the decoder reads -/

/-- All that the decoder can answer behind a header: whatever it names has the header's OPCODE (R62). -/
theorem decode_cons_cases (hd : Word) (tl : List Word) :
    decode (hd :: tl) = .incomplete ∨
    decode (hd :: tl) = .reservedHeader (headerOpcode hd) tl ∨
    (lookupOpcode (headerOpcode hd) = none ∧
      decode (hd :: tl) = .illegalOpcode (headerOpcode hd) tl) ∨
    ∃ i rest, i.opcode = headerOpcode hd ∧ decode (hd :: tl) = .command i rest := by
  by_cases hres : headerReserved hd = 0
  · cases hrow : lookupOpcode (headerOpcode hd) with
    | none => exact .inr (.inr (.inl ⟨rfl, decode_of_lookup_none hres hrow⟩))
    | some row =>
      rcases Nat.lt_or_ge tl.length row.count with hshort | hlen
      · exact .inl (decode_of_short hres hrow hshort)
      · obtain ⟨_, hopcode, _⟩ := build_operandWord hrow hlen
        exact .inr (.inr (.inr ⟨_, _, hopcode, decode_of_lookup_some hres hrow hlen⟩))
  · exact .inr (.inl (decode_of_reserved hres))

end Sys2Proof

namespace Sys2Proof.Machine

/-! ### While FAULT = 1 -/

section halted

variable {s t : State}

theorem pushWord_of_fault (hf : s.fault = true) (w : Word) : pushWord w s = s := by
  simp [pushWord, hf]

/-- No event but reset leaves the fault state (60_exceptions.md R184). -/
theorem react_of_fault {e : Event} (hf : s.fault = true) (he : e ≠ .resetInput)
    (h : react e s = .next t) : t = s := by
  cases e with
  | blockStep => cases (step_of_fault hf).symm.trans h
  | push w =>
    cases h
    exact pushWord_of_fault hf w
  | read index =>
    cases hread : readRegister index s with
    | ok w => cases (react_read_of_ok hread).symm.trans h; rfl
    | error r => cases (react_read_of_error hread).symm.trans h
  | resetInput => exact absurd rfl he

end halted

/-- Settles O15: a halted block answers no step and drops a pushed word, and the registers that always hold
a value still do; reset gives the reset state, whose port is open and empty. -/
theorem faultHaltsUntilReset : Obligations.FaultHaltsUntilReset := by
  refine fun s hf => ⟨fun t ht => ?_, fun w => congrArg _ (pushWord_of_fault hf w), fun k hk => ?_,
    fun _ _ he h => react_of_fault hf he h, State.reset, rfl, rfl, rfl, fun w => ⟨_, rfl, rfl⟩⟩
  · cases (step_of_fault hf).symm.trans ht
  · obtain ⟨w, hread⟩ := readRegister_eq_ok s hk
    exact ⟨⟨w, hread⟩, react_read_of_ok hread⟩

/-! ### How a step enters the fault state -/

/-- The three ways to a fault record: the two header faults, which name no operand (30_encoding.md R62),
and a check of a command. -/
inductive FaultRecord : Cause → Octet → Nat → Prop where
  | reservedHeader (o : Octet) : FaultRecord .reservedHeader o 0
  | illegalOpcode {o : Octet} (h : lookupOpcode o = none) : FaultRecord .illegalOpcode o 0
  | check {i : Instr} {s : State} {c : Check} (h : c ∈ i.checks s) :
    FaultRecord c.cause i.opcode c.field

section step

variable {s t : State}

/-- A block that takes a step has a header at its port. -/
theorem port_ne_nil_of_step (hstep : step s = .next t) : s.port ≠ [] := by
  intro hport
  obtain ⟨hf, _⟩ := step_cases hstep
  cases (step_of_incomplete hf (hport ▸ rfl)).symm.trans hstep

/-- A step that takes a fault is the fault entry of its header or of a check, under the header's OPCODE
(60_exceptions.md R183). -/
theorem step_takeFault_of_fault {hd : Word} {tl : List Word} (hport : s.port = hd :: tl)
    (hstep : step s = .next t) (hfault : t.fault = true) :
    s.fault = false ∧ ∃ c k rest, FaultRecord c (headerOpcode hd) k ∧
      t = takeFault c (headerOpcode hd) k { s with port := rest } := by
  obtain ⟨hf, _⟩ := step_cases hstep
  refine ⟨hf, ?_⟩
  rcases decode_cons_cases hd tl with hdec | hdec | ⟨hrow, hdec⟩ | ⟨i, rest, hopcode, hdec⟩ <;>
    rw [← hport] at hdec
  · cases (step_of_incomplete hf hdec).symm.trans hstep
  · cases (step_of_reservedHeader hf hdec).symm.trans hstep
    exact ⟨_, _, _, .reservedHeader _, rfl⟩
  · cases (step_of_illegalOpcode hf hdec).symm.trans hstep
    exact ⟨_, _, _, .illegalOpcode hrow, rfl⟩
  · rw [step_of_command hf hdec, exec_eq_checks_effect, hopcode] at hstep
    rcases runChecked_cases hstep with ⟨c, hc, ht⟩ | ⟨_, rfl⟩
    · exact ⟨_, _, _, hopcode ▸ .check (firstFailure_eq_some hc).1, ht⟩
    · simp [hf] at hfault

end step

theorem cause_code_ne_zero (c : Cause) : c.code ≠ 0x00 := by cases c <;> decide

/-- Settles O52: the step is a fault entry, which writes the record and OUT_VALID alone. -/
theorem faultEntryOfR183 : Obligations.FaultEntryOfR183 := by
  intro s t hd tl hport hstep hfault
  obtain ⟨hf, c, k, rest, _, rfl⟩ := step_takeFault_of_fault hport hstep hfault
  exact ⟨hf, cause_code_ne_zero c, rfl, rfl, rfl, rfl, rfl⟩

/-! ### The record of each cause -/

/-- The OPCODE and the operand index under which the commands' checks raise each cause
(60_exceptions.md R181, 30_encoding.md R65). The two causes of a header are raised by no check. -/
def Cause.checkRecords : Cause → List (Octet × Octet)
  | .illegalOpcode | .reservedHeader => []
  | .finalized => [(0x02, 0), (0x03, 0), (0x04, 0)]
  | .appendWidth => [(0x02, 2)]
  | .appendValue => [(0x02, 1)]
  | .overflow => [(0x02, 2), (0x03, 1)]
  | .fieldRange =>
    [3, 4, 6, 7, 8, 9, 10, 11, 12, 13].map (Prod.mk 0x10)
      ++ [2, 3, 5, 6, 7, 8].map (Prod.mk 0x11)
      ++ [3, 4, 5, 6, 7, 8, 9, 10, 11, 12].map (Prod.mk 0x12)
      ++ [2, 3, 5, 6, 7, 8].map (Prod.mk 0x13)
      ++ [3, 4, 5, 6, 7].map (Prod.mk 0x14)
      ++ [3, 4, 5, 6].map (Prod.mk 0x15)
      ++ [3, 4, 5, 6, 7, 8, 9, 10, 11].map (Prod.mk 0x16)
      ++ [1, 2, 3, 4, 5, 6].map (Prod.mk 0x17)
  | .reservedValue => [(0x10, 2), (0x13, 2), (0x13, 8), (0x15, 6)]
  | .nRbRange => [(0x10, 1), (0x11, 1), (0x12, 1), (0x13, 1), (0x14, 1), (0x15, 1), (0x16, 1)]
  | .freqRange => [(0x10, 5), (0x11, 4), (0x12, 2), (0x13, 4), (0x14, 2), (0x15, 2), (0x16, 2)]
  | .hopConfig => [(0x10, 3), (0x11, 2)]
  | .payloadSize =>
    [(0x10, 14), (0x11, 9), (0x12, 13), (0x13, 9), (0x14, 8), (0x15, 7), (0x16, 12)]

/-- Every check of a command raises its cause under a record that the table has for that cause. The causes
and the indices of the checks depend on the command's constructor alone, so the lists are compared as they
stand, whatever the operands. -/
theorem checks_record {i : Instr} {s : State} {c : Check} (hc : c ∈ i.checks s) :
    (i.opcode, BitVec.ofNat 8 c.field) ∈ c.cause.checkRecords := by
  have hall : (i.checks s).all (fun c =>
      decide ((i.opcode, BitVec.ofNat 8 c.field) ∈ c.cause.checkRecords)) = true := by
    cases i <;> rfl
  exact of_decide_eq_true (List.all_eq_true.mp hall c hc)

/-- Settles O53: a header's record as it stands, and a check's record from the table's row for its cause. -/
theorem faultCausesOfR181 : Obligations.FaultCausesOfR181 := by
  intro s t hstep hfault
  obtain ⟨hd, tl, hport⟩ := List.exists_cons_of_ne_nil (port_ne_nil_of_step hstep)
  obtain ⟨_, c, k, rest, hrecord, rfl⟩ := step_takeFault_of_fault hport hstep hfault
  simp only [takeFault_faultCause, takeFault_faultOpcode, takeFault_faultField]
  generalize headerOpcode hd = o at hrecord
  cases hrecord with
  | reservedHeader => exact .inr (.inl ⟨rfl, rfl⟩)
  | illegalOpcode hrow => exact .inl ⟨rfl, hrow, rfl⟩
  | @check i _ c hc =>
    have hmem := checks_record hc
    generalize i.opcode = o, BitVec.ofNat 8 c.field = k, c.cause = cause at hmem ⊢
    cases cause with
    | illegalOpcode | reservedHeader => exact absurd hmem List.not_mem_nil
    | _ => simpa [Cause.checkRecords, Cause.code, and_or_left, or_and_right, or_assoc] using hmem

end Sys2Proof.Machine
end

section
/-! The host and the block over time (70_reset_and_hazards.md): every event of either agent keeps the
invariants of 10_state.md R35 (R217), a partly received command waits (R214), and what the host may take
when a command has ended (R216, R220). -/

namespace Sys2Proof

open Machine

/-! ### The legal PSIZE of each command -/

theorem D00C.Legal.size {d : D00C} (h : d.Legal) :
    SizeLegal d.psize (20 + freqWidth d.nRb + d.sulPresent) := by
  obtain ⟨_, _, _, _, _, _, _, _, _, _, _, _, hsize⟩ := h
  exact hsize

theorem D00TC.Legal.size {d : D00TC} (h : d.Legal) : SizeLegal d.psize (15 + freqWidth d.nRb) := by
  obtain ⟨_, _, _, _, _, _, hsize⟩ := h
  exact hsize

theorem D10C.Legal.size {d : D10C} (h : d.Legal) : SizeLegal d.psize (28 + freqWidth d.nRb) := by
  obtain ⟨_, _, _, _, _, _, _, _, _, _, _, hsize⟩ := h
  exact hsize

theorem D10P.Legal.size {d : D10P} (h : d.Legal) : SizeLegal d.psize (28 + freqWidth d.nRb) := by
  obtain ⟨_, _, _, _, _, _, _, hsize⟩ := h
  exact hsize

theorem D10SI.Legal.size {d : D10SI} (h : d.Legal) : SizeLegal d.psize (28 + freqWidth d.nRb) := by
  obtain ⟨_, _, _, _, _, _, hsize⟩ := h
  exact hsize

theorem D10RA.Legal.size {d : D10RA} (h : d.Legal) : SizeLegal d.psize (28 + freqWidth d.nRb) := by
  obtain ⟨_, _, _, _, _, hsize⟩ := h
  exact hsize

theorem D10TC.Legal.size {d : D10TC} (h : d.Legal) : SizeLegal d.psize (26 + freqWidth d.nRb) := by
  obtain ⟨_, _, _, _, _, _, _, _, _, _, hsize⟩ := h
  exact hsize

end Sys2Proof

namespace Sys2Proof.Machine

/-! ### The length of a legal layout -/

/-- The offset and the rest of FREQ fill the field together, where the field has room for the offset. -/
theorem emitAll_freqField_length {hopFlag h width : Nat} (hroom : hopFlag = 1 → h ≤ width)
    (hopOffset freq : Nat) :
    (emitAll (freqField hopFlag hopOffset freq width h)).length = width := by
  rw [emitAll_freqField]
  split
  case isTrue hflag =>
    have hle : h ≤ width := hroom hflag
    simp
    omega
  case isFalse => exact bits_length freq width

theorem layoutD00C_length {d : D00C} (h : d.Legal) :
    (emitAll (layoutD00C d)).length = d.psize := by
  obtain ⟨hnat, _⟩ := h.size
  obtain ⟨_, _, _, ⟨_, _, hroom⟩, _, _, _, _, _, _, hpresent, _⟩ := h
  have hfreq := emitAll_freqField_length (fun hflag => (hroom hflag).1) d.hopOffset d.freq
  have hsul : (emitAll (if d.sulPresent = 1 then [.emit d.sul 1] else [])).length = d.sulPresent := by
    split
    case isTrue hone => simp [hone]
    case isFalse hne => simp; omega
  simp [layoutD00C, hfreq, hsul, natD00C]
  omega

theorem layoutD00TC_length {d : D00TC} (h : d.Legal) :
    (emitAll (layoutD00TC d)).length = d.psize := by
  obtain ⟨hnat, _⟩ := h.size
  obtain ⟨_, ⟨_, _, hroom⟩, _⟩ := h
  have hfreq := emitAll_freqField_length (fun hflag => (hroom hflag).1) d.hopOffset d.freq
  simp [layoutD00TC, hfreq, natD00TC]
  omega

theorem layoutD10C_length {d : D10C} (h : d.Legal) :
    (emitAll (layoutD10C d)).length = d.psize := by
  obtain ⟨hnat, _⟩ := h.size
  simp [layoutD10C, natD10C]
  omega

/-- A gate of 43_dci_1_0.md R142 chooses between fields and as many zeros, so it does not matter to the
length. -/
theorem layoutD10P_length {d : D10P} (h : d.Legal) :
    (emitAll (layoutD10P d)).length = d.psize := by
  obtain ⟨hnat, _⟩ := h.size
  simp [layoutD10P, natD10P, apply_ite emitAll, apply_ite List.length]
  omega

theorem layoutD10SI_length {d : D10SI} (h : d.Legal) :
    (emitAll (layoutD10SI d)).length = d.psize := by
  obtain ⟨hnat, _⟩ := h.size
  simp [layoutD10SI, natD10SI]
  omega

theorem layoutD10RA_length {d : D10RA} (h : d.Legal) :
    (emitAll (layoutD10RA d)).length = d.psize := by
  obtain ⟨hnat, _⟩ := h.size
  simp [layoutD10RA, natD10RA]
  omega

theorem layoutD10TC_length {d : D10TC} (h : d.Legal) :
    (emitAll (layoutD10TC d)).length = d.psize := by
  obtain ⟨hnat, _⟩ := h.size
  simp [layoutD10TC, natD10TC]
  omega

theorem layoutRar_length (d : RarGrant) : (emitAll (layoutRar d)).length = 27 := by
  simp [layoutRar]

/-- A legal packing command's layout emits exactly as many bits as the command yields
(41_packer_common.md R104, R110). -/
theorem payloadSize_eq_layout_length {i : Instr} {l : List Emission} (hl : i.packLayout = some l)
    (hlegal : i.PackLegal) : i.payloadSize = some (emitAll l).length := by
  cases i <;> cases hl
  case packD00C => exact congrArg some (layoutD00C_length hlegal).symm
  case packD00TC => exact congrArg some (layoutD00TC_length hlegal).symm
  case packD10C => exact congrArg some (layoutD10C_length hlegal).symm
  case packD10P => exact congrArg some (layoutD10P_length hlegal).symm
  case packD10SI => exact congrArg some (layoutD10SI_length hlegal).symm
  case packD10RA => exact congrArg some (layoutD10RA_length hlegal).symm
  case packD10TC => exact congrArg some (layoutD10TC_length hlegal).symm
  case packRar d => exact congrArg some (layoutRar_length d).symm

/-- No legal packing command yields more than M bits (41_packer_common.md R108). -/
theorem payloadSize_le_maxPayload {i : Instr} {n : Nat} (hn : i.payloadSize = some n)
    (hlegal : i.PackLegal) : n ≤ Config.maxPayload := by
  cases i <;> cases hn
  case packD00C => exact (D00C.Legal.size hlegal).2
  case packD00TC => exact (D00TC.Legal.size hlegal).2
  case packD10C => exact (D10C.Legal.size hlegal).2
  case packD10P => exact (D10P.Legal.size hlegal).2
  case packD10SI => exact (D10SI.Legal.size hlegal).2
  case packD10RA => exact (D10RA.Legal.size hlegal).2
  case packD10TC => exact (D10TC.Legal.size hlegal).2
  case packRar => decide

/-! ### What keeps the invariants of 10_state.md R35 -/

section inv

variable {s t : State}

/-- The accumulator and OUT stay within M bits: an extending command has checked its room, and a packing
command the legality of its operands. -/
theorem effect_keeps_lengths {i : Instr} (hpass : firstFailure (i.checks s) = none)
    (hacc : s.acc.length ≤ Config.maxPayload) (hout : s.out.length ≤ Config.maxPayload) :
    (i.effect s).acc.length ≤ Config.maxPayload ∧ (i.effect s).out.length ≤ Config.maxPayload := by
  rcases effect_cases i with ⟨_, he⟩ | ⟨v, w, rfl, he⟩ | ⟨n, rfl, he⟩ | ⟨_, he⟩ | ⟨l, hl, he⟩ <;>
    rw [he]
  · exact ⟨Nat.zero_le _, hout⟩
  · have hroom : s.acc.length + w ≤ Config.maxPayload := by
      simp [Instr.checks, appendChecks] at hpass
      omega
    exact ⟨by simpa using hroom, hout⟩
  · have hroom : s.acc.length + n ≤ Config.maxPayload := by
      simp [Instr.checks, zerosChecks] at hpass
      omega
    exact ⟨by simpa using hroom, hout⟩
  · exact ⟨hacc, hacc⟩
  · have hlegal : i.PackLegal := (checks_pass_iff_packLegal hl s).mp hpass
    have hmax := payloadSize_le_maxPayload (payloadSize_eq_layout_length hl hlegal) hlegal
    exact ⟨hmax, hmax⟩

theorem effect_keeps_inv {i : Instr} (hf : s.fault = false)
    (hpass : firstFailure (i.checks s) = none) (hinv : s.Inv) : (i.effect s).Inv := by
  obtain ⟨hacc, hout, hclear, _⟩ := hinv
  obtain ⟨hacc', hout'⟩ := effect_keeps_lengths hpass hacc hout
  exact ⟨hacc', hout', by simpa using hclear, by simp [hf]⟩

theorem takeFault_keeps_inv (c : Cause) (o : Octet) (k : Nat) (hinv : s.Inv) :
    (takeFault c o k s).Inv := by
  obtain ⟨hacc, hout, _, _⟩ := hinv
  exact ⟨hacc, hout, by simp, fun _ => ⟨rfl, cause_code_ne_zero c⟩⟩

theorem step_keeps_inv (hinv : s.Inv) (hstep : step s = .next t) : t.Inv := by
  obtain ⟨hf, rest, ⟨c, o, k, _, rfl⟩ | ⟨i, _, hpass, rfl⟩⟩ := step_takeFault_or_effect hstep
  · exact takeFault_keeps_inv c o k hinv
  · exact effect_keeps_inv hf hpass hinv

end inv

theorem reset_has_invariants :
    State.reset.Inv ∧ State.reset.FinalInv ∧ State.reset.RecordInv := by
  simp [State.Inv, State.FinalInv, State.RecordInv, State.reset]

/-- A register read has no side effect (10_state.md R30). -/
theorem react_read_eq {index : BitVec 4} {s t : State} (h : react (.read index) s = .next t) :
    t = s := by
  cases hread : readRegister index s with
  | ok w => cases (react_read_of_ok hread).symm.trans h; rfl
  | error r => cases (react_read_of_error hread).symm.trans h

/-- Settles O57, event by event: a step keeps each invariant, a push writes the port alone, of which no
invariant speaks, a read writes nothing, and reset starts anew. -/
theorem everyEventKeepsTheInvariants : Obligations.EveryEventKeepsTheInvariants := by
  intro e s t hinv hfinal hrecord hreact
  cases e with
  | blockStep =>
    exact ⟨step_keeps_inv hinv hreact, everyStepKeepsFinalEqualsOut s t hfinal hrecord hreact⟩
  | push w =>
    cases hreact
    rw [pushWord_eq]
    exact ⟨hinv, hfinal, hrecord⟩
  | read index =>
    cases react_read_eq hreact
    exact ⟨hinv, hfinal, hrecord⟩
  | resetInput =>
    cases hreact
    exact reset_has_invariants

/-! ### A partly received command -/

/-- The words of a command without its last ones are no whole command yet (10_state.md R34). -/
theorem decode_take_encode (i : Instr) {k : Nat} (hk : k < (encode i).length) :
    decode ((encode i).take k) = .incomplete := by
  cases k with
  | zero => rfl
  | succ n =>
    obtain ⟨row, hlookup, hrow⟩ := Option.map_eq_some_iff.mp (lookupOpcode_build_operands i)
    obtain ⟨hcount, _⟩ := Prod.mk.inj hrow
    rw [encode_length] at hk
    refine decode_of_short (headerReserved_setWidth _) (by rwa [headerOpcode_setWidth]) ?_
    simp
    omega

/-- While FAULT = 0 the pushed words stand behind those at the port, in the order of arrival
(20_memory.md R51). -/
theorem pushWords_of_no_fault (ws : List Word) :
    ∀ {s : State}, s.fault = false → pushWords ws s = { s with port := s.port ++ ws } := by
  induction ws with
  | nil => simp [pushWords]
  | cons w ws ih =>
    intro s hf
    have hpush : pushWord w s = { s with port := s.port ++ [w] } := by simp [pushWord, hf]
    calc pushWords (w :: ws) s
        = pushWords ws { s with port := s.port ++ [w] } := congrArg (pushWords ws) hpush
      _ = { s with port := s.port ++ [w] ++ ws } := ih hf
      _ = { s with port := s.port ++ (w :: ws) } := by rw [List.append_assoc, List.singleton_append]

/-- Settles O12: fewer words than the command has decode to no command, and the words that are missing
complete it. -/
theorem partialCommandWaits : Obligations.PartialCommandWaits := by
  intro s i k hf hwf hk hport
  refine ⟨step_of_incomplete hf (hport ▸ decode_take_encode i hk), ?_, rfl⟩
  have hall : s.port ++ (encode i).drop k = encode i ++ [] := by
    rw [hport, List.take_append_drop, List.append_nil]
  rw [pushWords_of_no_fault _ hf, hall]
  exact step_of_command hf (decode_encode hwf [])

/-! ### The result of a command -/

theorem deliveredPayload_packed {s : State} (hf : s.fault = false) (p : Payload) :
    deliveredPayload (packed p s) = some p := by
  simp [deliveredPayload, packed, hf]

theorem deliveredPayload_of_fault {s : State} (hf : s.fault = true) : deliveredPayload s = none := by
  simp [deliveredPayload, hf]

/-- Settles O59: the step executes the decoded command, which commits its layout's bits where its operands
are legal (O46). -/
theorem deliveredPayloadOfCommand : Obligations.DeliveredPayload := by
  intro s t i rest hf hd hstep
  refine ⟨fun l hl hlegal => ?_, deliveredPayload_of_fault⟩
  rw [step_of_command hf hd, (packersCompleteExactlyOnLegalOperands i l hl).1 hlegal] at hstep
  cases hstep
  exact deliveredPayload_packed hf (emitAll l)

end Sys2Proof.Machine
end

section
/-! The invariants of 10_state.md R35 over a step, and at reset (R36). -/

namespace Sys2Proof.Machine

/-- A packing command that ends without fault has committed its payload (41_packer_common.md R102). -/
theorem step_commits_of_packLayout {s t : State} {i : Instr} {rest : List Word} {l : List Emission}
    (hstep : step s = .next t) (hd : decode s.port = .command i rest) (hl : i.packLayout = some l)
    (hf : t.fault = false) : t.acc = t.out ∧ t.accFinal = true ∧ t.outValid = true := by
  obtain ⟨_, rest', ⟨c, o, k, _, rfl⟩ | ⟨j, hj, _, rfl⟩⟩ := step_takeFault_or_effect hstep
  · cases hf
  · cases hd.symm.trans hj
    rw [effect_of_packLayout hl]
    exact ⟨rfl, rfl, rfl⟩

/-- Settles O55: a fault and an effect each keep the first three items, and a packing command's effect is
its commit. -/
theorem everyStepKeepsTheInvariantsOfR35 : Obligations.EveryStepKeepsTheInvariantsOfR35 :=
  fun _ _ hinv hstep =>
    ⟨step_keeps_inv hinv hstep, fun _ _ _ hd hl hf => step_commits_of_packLayout hstep hd hl hf⟩

/-- Settles O58: at reset the payloads are empty, the record is clear and the accumulator is open. -/
theorem resetHasTheInvariants : Obligations.ResetHasTheInvariants := reset_has_invariants

end Sys2Proof.Machine
end

section
/-! `bits` and `num` as inverses (00_scope.md R8, R9), a payload read word by word (10_state.md R29) and the
frequency field as one number (42_dci_0_0.md R121). -/

namespace Sys2Proof.Machine

/-! ### `bits` and `num` -/

theorem num_bits_eq_mod (v w : Nat) : num (bits v w) = v % 2 ^ w := by
  induction w with
  | zero => simp [Nat.mod_one]
  | succ w ih =>
    rw [bits_succ, num_cons, bits_length, ih, Nat.toNat_testBit, Nat.mod_pow_succ]
    ring

theorem num_bits {v w : Nat} (h : v < 2 ^ w) : num (bits v w) = v := by
  rw [num_bits_eq_mod, Nat.mod_eq_of_lt h]

theorem bits_num (a : Payload) : bits (num a) a.length = a := by
  refine List.ext_getElem (bits_length ..) fun j _ hj => ?_
  have hpos : a.length - 1 - (a.length - 1 - j) = j := by omega
  have hbit : (num a).testBit (a.length - 1 - j) = a[j] := by
    rw [testBit_num (by omega), hpos]
    simp [payloadBit, hj]
  rw [List.getElem_eq_iff, getElem?_bits _ hj, hbit]

/-- Settles O2: bit by bit from the most significant, and `num` takes the listed bits' weights. -/
theorem bitsAreMsbFirstAndNumInvertsThem : Obligations.BitsAreMsbFirstAndNumInvertsThem :=
  fun v w hv => ⟨bits_length v w, fun _ hj => getElem?_bits v hj, num_bits hv, rfl⟩

/-- Two values emitted one after another are one value, the first of them shifted past the second. -/
theorem bits_append_bits {u v h n : Nat} (hu : u < 2 ^ h) (hv : v < 2 ^ n) :
    bits u h ++ bits v n = bits (u * 2 ^ n + v) (h + n) := by
  have hnum : num (bits u h ++ bits v n) = u * 2 ^ n + v := by
    rw [num_append, num_bits hu, num_bits hv, bits_length]
  have hlen : (bits u h ++ bits v n).length = h + n := by simp
  rw [← hnum, ← hlen, bits_num]

/-- Settles O28: the field emits its one or two lines, and with room for the offset the two together are as
wide as the field. -/
theorem frequencyFieldSplitOfR121 : Obligations.FrequencyFieldSplitOfR121 := by
  intro hopFlag hopOffset freq width h
  rw [emitAll_freqField]
  refine ⟨fun hflag => if_neg hflag, fun hflag hroom hoffset hfreq => ?_⟩
  rw [if_pos hflag, bits_append_bits hoffset hfreq, Nat.add_sub_cancel' hroom]
  exact ⟨rfl, rfl⟩

/-! ### A payload as its registers show it -/

/-- n positions of a payload from position p on, with 0 past the end as a register shows them (R29). -/
def shown (a : Payload) (p n : Nat) : Payload := (List.range n).map fun j => payloadBit a (p + j)

@[simp] theorem shown_length (a : Payload) (p n : Nat) : (shown a p n).length = n := by simp [shown]

theorem shown_append_shown (a : Payload) (p m n : Nat) :
    shown a p m ++ shown a (p + m) n = shown a p (m + n) := by
  simp [shown, List.range_add, Nat.add_assoc]

theorem num_zeros (n : Nat) : num (zeros n) = 0 := by
  induction n with
  | zero => rfl
  | succ n ih => rw [zeros, List.replicate_succ, num_cons, ← zeros, ih]; simp

/-- From position 0 on a payload is shown left-justified. -/
theorem shown_eq_append_zeros {a : Payload} {n : Nat} (h : a.length ≤ n) :
    shown a 0 n = a ++ zeros (n - a.length) := by
  refine List.ext_getElem (by simp; omega) fun j _ _ => ?_
  rcases Nat.lt_or_ge j a.length with hin | hpast
  · simp [shown, payloadBit, hin]
  · simp [shown, payloadBit, zeros, List.getElem_append_right, hpast]

theorem payloadWord_toNat (a : Payload) (k : Nat) :
    (payloadWord a k).toNat = num (shown a (32 * k) 32) := by
  rw [payloadWord, BitVec.toNat_ofNat]
  exact Nat.mod_eq_of_lt ((num_lt _).trans_eq (by rw [List.length_map, List.length_range]))

/-- One more word behind the positions shown so far (20_memory.md R45). -/
theorem num_shown_payloadWord (a : Payload) (k : Nat) :
    num (shown a 0 (32 * k)) * 2 ^ 32 + (payloadWord a k).toNat = num (shown a 0 (32 * (k + 1))) := by
  have hsplit := shown_append_shown a 0 (32 * k) 32
  rw [Nat.zero_add] at hsplit
  rw [Nat.mul_succ, ← hsplit, num_append, shown_length, payloadWord_toNat]

/-- Settles O17: the four words are the positions 0 to 127, which show the payload and then zeros. -/
theorem payloadWordsAreLeftJustified : Obligations.PayloadWordsAreLeftJustified := by
  intro a hlen
  have hfirst : (payloadWord a 0).toNat = num (shown a 0 (32 * 1)) := payloadWord_toNat a 0
  rw [hfirst, num_shown_payloadWord, num_shown_payloadWord, num_shown_payloadWord,
    shown_eq_append_zeros hlen, num_append, num_zeros, zeros_length, Nat.add_zero]

end Sys2Proof.Machine
end

section
/-! Where a layout's lines stand in the payload (41_packer_common.md R100, R113): each line of a list of
emissions at its own positions, for every layout at once, and the legal layouts' values against their
widths. -/

namespace Sys2Proof.Machine

/-! ### The lines of a layout at their positions -/

/-- The positions of p from `off` on hold the layout's fields one after another, the values of `emit` lines
as numbers and zeros for `emitz` lines. -/
def LayoutAt (p : Payload) : Nat → List Emission → Prop
  | _, [] => True
  | off, .emit v w :: l => num (slice p off w) = v ∧ LayoutAt p (off + w) l
  | off, .emitz n :: l => slice p off n = zeros n ∧ LayoutAt p (off + n) l

/-- An `emit` line's value fits its width, which is at most that of R114's widest field, 16. -/
def Emission.Fits : Emission → Prop
  | .emit v w => v < 2 ^ w ∧ w ≤ 16
  | .emitz _ => True

@[simp] theorem emit_fits (v w : Nat) : (Emission.emit v w).Fits ↔ v < 2 ^ w ∧ w ≤ 16 := .rfl

@[simp] theorem emitz_fits (n : Nat) : (Emission.emitz n).Fits := trivial

theorem slice_append_middle (a b c : Payload) : slice (a ++ b ++ c) a.length b.length = b := by
  simp [slice]

/-- Behind whatever stands before them, the bits a layout emits hold its fields. -/
theorem layoutAt_append_emitAll (a : Payload) {l : List Emission} (hfits : ∀ e ∈ l, e.Fits) :
    LayoutAt (a ++ emitAll l) a.length l := by
  induction l generalizing a with
  | nil => trivial
  | cons e l ih =>
    obtain ⟨hfit, hrest⟩ := List.forall_mem_cons.mp hfits
    have hline := slice_append_middle a e.payload (emitAll l)
    have hlines := ih (a ++ e.payload) hrest
    rw [emitAll_cons, ← List.append_assoc]
    rw [List.length_append] at hlines
    cases e with
    | emit v w =>
      rw [emit_payload, bits_length] at hline hlines
      exact ⟨by rw [emit_payload, hline, num_bits hfit.1], hlines⟩
    | emitz n =>
      rw [emitz_payload, zeros_length] at hline hlines
      exact ⟨hline, hlines⟩

theorem layoutAt_emitAll {l : List Emission} (hfits : ∀ e ∈ l, e.Fits) :
    LayoutAt (emitAll l) 0 l :=
  layoutAt_append_emitAll [] hfits

theorem layoutAt_append {p : Payload} {off : Nat} {l m : List Emission} :
    LayoutAt p off (l ++ m) ↔ LayoutAt p off l ∧ LayoutAt p (off + (emitAll l).length) m := by
  induction l generalizing off with
  | nil => simp [LayoutAt]
  | cons e l ih => cases e <;> simp [LayoutAt, ih, and_assoc, Nat.add_assoc]

/-! ### The values of a legal layout fit -/

/-- R114's largest width belongs to the largest N_RB. -/
theorem freqWidth_le_sixteen {nRb : Nat} (h : nRb ≤ Config.maxNRb) : freqWidth nRb ≤ 16 :=
  freqWidth_le_of_le h (by decide)

theorem freqLegal_fits {nRb freq : Nat} (h : FreqLegal nRb freq) :
    freq < 2 ^ freqWidth nRb ∧ freqWidth nRb ≤ 16 := by
  obtain ⟨hpos, hmax, hfreq⟩ := h
  have hone := one_le_resourceValues hpos
  have hwidth : resourceValues nRb ≤ 2 ^ freqWidth nRb := le_two_pow_clog2 _
  exact ⟨by omega, freqWidth_le_sixteen hmax⟩

/-- With hopping the offset and the rest of FREQ each fit their part of the field (42_dci_0_0.md R121). -/
theorem freqField_fits {nRb hopFlag hopOffset freq h : Nat} (hfreq : FreqLegal nRb freq)
    (hhop : HopLegal hopFlag hopOffset freq (freqWidth nRb) h) :
    ∀ e ∈ freqField hopFlag hopOffset freq (freqWidth nRb) h, e.Fits := by
  obtain ⟨hfits, hwidth⟩ := freqLegal_fits hfreq
  obtain ⟨_, hoffset, hsplit⟩ := hhop
  unfold freqField
  split
  case isTrue hflag =>
    obtain ⟨hroom, hrest⟩ := hsplit hflag
    simp [hoffset, hrest]
    omega
  case isFalse => simp [hfits, hwidth]

theorem layoutD00C_fits {d : D00C} (h : d.Legal) : ∀ e ∈ layoutD00C d, e.Fits := by
  obtain ⟨hfreq, _, _, hhop, htime, hmcs, hndi, hrv, hharq, htpc, _, hsul, _⟩ := h
  have hflag : d.hopFlag < 2 := hhop.1
  have hsulLine : ∀ e ∈ if d.sulPresent = 1 then [Emission.emit d.sul 1] else [], e.Fits := by
    split <;> simp [hsul]
  simp only [layoutD00C, List.forall_mem_append]
  refine ⟨⟨⟨by simp, freqField_fits hfreq hhop⟩, ?_⟩, hsulLine⟩
  simp [htime, hflag, hmcs, hndi, hrv, hharq, htpc]

theorem layoutD00TC_fits {d : D00TC} (h : d.Legal) : ∀ e ∈ layoutD00TC d, e.Fits := by
  obtain ⟨hfreq, hhop, htime, hmcs, hrv, htpc, _⟩ := h
  have hflag : d.hopFlag < 2 := hhop.1
  simp only [layoutD00TC, List.forall_mem_append]
  exact ⟨⟨by simp, freqField_fits hfreq hhop⟩, by simp [htime, hflag, hmcs, hrv, htpc]⟩

theorem layoutD10C_fits {d : D10C} (h : d.Legal) : ∀ e ∈ layoutD10C d, e.Fits := by
  obtain ⟨hfreq, htime, hvrb, hmcs, hndi, hrv, hharq, hdai, htpc, hpri, hk1, _⟩ := h
  simp [layoutD10C, freqLegal_fits hfreq, htime, hvrb, hmcs, hndi, hrv, hharq, hdai, htpc, hpri, hk1]

theorem layoutD10P_fits {d : D10P} (h : d.Legal) : ∀ e ∈ layoutD10P d, e.Fits := by
  obtain ⟨hfreq, hsmi, hsm, htime, hvrb, hmcs, htbs, _⟩ := h
  obtain ⟨hfits, hwidth⟩ := freqLegal_fits hfreq
  have htbs' : d.tbs < 4 := by omega
  rcases hsmi with hsmi | hsmi | hsmi <;>
    simp [layoutD10P, hsmi, hsm, hfits, hwidth, htime, hvrb, hmcs, htbs']

theorem layoutD10SI_fits {d : D10SI} (h : d.Legal) : ∀ e ∈ layoutD10SI d, e.Fits := by
  obtain ⟨hfreq, htime, hvrb, hmcs, hrv, hsii, _⟩ := h
  simp [layoutD10SI, freqLegal_fits hfreq, htime, hvrb, hmcs, hrv, hsii]

theorem layoutD10RA_fits {d : D10RA} (h : d.Legal) : ∀ e ∈ layoutD10RA d, e.Fits := by
  obtain ⟨hfreq, htime, hvrb, hmcs, htbs, _⟩ := h
  have htbs' : d.tbs < 4 := by omega
  simp [layoutD10RA, freqLegal_fits hfreq, htime, hvrb, hmcs, htbs']

theorem layoutD10TC_fits {d : D10TC} (h : d.Legal) : ∀ e ∈ layoutD10TC d, e.Fits := by
  obtain ⟨hfreq, htime, hvrb, hmcs, hndi, hrv, hharq, htpc, hpri, hk1, _⟩ := h
  simp [layoutD10TC, freqLegal_fits hfreq, htime, hvrb, hmcs, hndi, hrv, hharq, htpc, hpri, hk1]

theorem layoutRar_fits {d : RarGrant} (h : d.Legal) : ∀ e ∈ layoutRar d, e.Fits := by
  obtain ⟨hflag, hfreq, htime, hmcs, htpc, hcsi⟩ := h
  have hwide : d.freq < 16384 := hfreq
  simp [layoutRar, Nat.le_of_lt_succ hflag, hwide, htime, hmcs, htpc, Nat.le_of_lt_succ hcsi]

/-- Every value that a legal packing command emits fits its width (41_packer_common.md R116). -/
theorem packLayout_fits {i : Instr} {l : List Emission} (hl : i.packLayout = some l)
    (hlegal : i.PackLegal) : ∀ e ∈ l, e.Fits := by
  cases i <;> cases hl
  case packD00C => exact layoutD00C_fits hlegal
  case packD00TC => exact layoutD00TC_fits hlegal
  case packD10C => exact layoutD10C_fits hlegal
  case packD10P => exact layoutD10P_fits hlegal
  case packD10SI => exact layoutD10SI_fits hlegal
  case packD10RA => exact layoutD10RA_fits hlegal
  case packD10TC => exact layoutD10TC_fits hlegal
  case packRar => exact layoutRar_fits hlegal

/-! ### The packing commands' layout tables -/

/-- A legal packing command completes with a payload of its exact size that holds its layout's fields at
their positions. -/
theorem exec_packs_layoutAt {i : Instr} {l : List Emission} (hl : i.packLayout = some l)
    (hlegal : i.PackLegal) (s : State) :
    ∃ p, exec i s = .next (packed p s) ∧ i.payloadSize = some p.length ∧ LayoutAt p 0 l :=
  ⟨emitAll l, (packersCompleteExactlyOnLegalOperands i l hl).1 hlegal s,
    payloadSize_eq_layout_length hl hlegal, layoutAt_emitAll (packLayout_fits hl hlegal)⟩

/-- The field of a 0_0 command that carries FREQ, without and with hopping (42_dci_0_0.md R121). -/
theorem layoutAt_freqField {p : Payload} {off hopFlag hopOffset freq width h : Nat}
    (hlines : LayoutAt p off (freqField hopFlag hopOffset freq width h)) :
    (hopFlag = 0 → num (slice p off width) = freq) ∧
    (hopFlag = 1 → num (slice p off h) = hopOffset ∧ num (slice p (off + h) (width - h)) = freq) := by
  unfold freqField at hlines
  split at hlines
  case isTrue hflag => simpa [hflag, LayoutAt] using hlines
  case isFalse hflag => simpa [hflag, LayoutAt] using fun _ => hlines

/-- Settles O30: the frequency field is W bits whether it hops or not, and UL/SUL, where it is present, is
the bit behind the padding. -/
theorem packD00CLayoutOfR123 : Obligations.PackD00CLayoutOfR123 := by
  intro d s hlegal
  obtain ⟨p, hexec, hsize, hlines⟩ := exec_packs_layoutAt (i := .packD00C d) rfl hlegal s
  obtain ⟨hnat, _⟩ := hlegal.size
  obtain ⟨_, _, _, ⟨_, _, hroom⟩, _⟩ := hlegal
  have hwidth := emitAll_freqField_length (fun hflag => (hroom hflag).1) d.hopOffset d.freq
  simp only [layoutD00C, List.append_assoc, List.cons_append, List.nil_append, layoutAt_append, LayoutAt,
    hwidth, zero_add, Nat.add_comm 1] at hlines
  obtain ⟨hformat, hfreq, htime, hflag, hmcs, hndi, hrv, hharq, htpc, hpad, hsul⟩ := hlines
  obtain ⟨hplain, hhops⟩ := layoutAt_freqField hfreq
  refine ⟨p, hexec, (Option.some.inj hsize).symm, hformat, hplain, hhops, htime, hflag, hmcs, hndi, hrv,
    hharq, htpc, hpad, fun hone => ?_⟩
  have hlast : freqWidth d.nRb + 20 + (d.psize - natD00C d) = d.psize - 1 := by
    rw [natD00C]; omega
  rw [← hlast]
  rw [if_pos hone] at hsul
  exact hsul.1

/-- Settles O32: as PACK.D00C, without NDI, HARQ and UL/SUL. -/
theorem packD00TCLayoutOfR126 : Obligations.PackD00TCLayoutOfR126 := by
  intro d s hlegal
  obtain ⟨p, hexec, hsize, hlines⟩ := exec_packs_layoutAt (i := .packD00TC d) rfl hlegal s
  obtain ⟨_, ⟨_, _, hroom⟩, _⟩ := hlegal
  have hwidth := emitAll_freqField_length (fun hflag => (hroom hflag).1) d.hopOffset d.freq
  simp only [layoutD00TC, List.cons_append, List.nil_append, layoutAt_append, LayoutAt, hwidth, zero_add,
    Nat.add_comm 1, and_true] at hlines
  obtain ⟨hformat, hfreq, hfields⟩ := hlines
  obtain ⟨hplain, hhops⟩ := layoutAt_freqField hfreq
  exact ⟨p, hexec, (Option.some.inj hsize).symm, hformat, hplain, hhops, hfields⟩

/-- Settles O34, line by line of the layout. -/
theorem packD10CLayoutOfR141 : Obligations.PackD10CLayoutOfR141 := by
  intro d s hlegal
  obtain ⟨p, hexec, hsize, hlines⟩ := exec_packs_layoutAt (i := .packD10C d) rfl hlegal s
  refine ⟨p, hexec, (Option.some.inj hsize).symm, ?_⟩
  simpa [layoutD10C, LayoutAt, natD10C, Nat.add_comm 1] using hlines

/-- Settles O36: SMI's three values choose the lines, and a gated field's line is as many zeros. -/
theorem packD10PLayoutOfR144 : Obligations.PackD10PLayoutOfR144 := by
  intro d s hlegal
  obtain ⟨p, hexec, hsize, hlines⟩ := exec_packs_layoutAt (i := .packD10P d) rfl hlegal s
  refine ⟨p, hexec, (Option.some.inj hsize).symm, ?_⟩
  obtain ⟨_, hsmi | hsmi | hsmi, _⟩ := hlegal <;>
    simpa [layoutD10P, LayoutAt, natD10P, hsmi, Nat.add_comm 10, and_assoc] using hlines

/-- Settles O38: without a format identifier bit the frequency field stands at position 0. -/
theorem packD10SILayoutOfR146 : Obligations.PackD10SILayoutOfR146 := by
  intro d s hlegal
  obtain ⟨p, hexec, hsize, hlines⟩ := exec_packs_layoutAt (i := .packD10SI d) rfl hlegal s
  refine ⟨p, hexec, (Option.some.inj hsize).symm, ?_⟩
  simpa [layoutD10SI, LayoutAt, natD10SI] using hlines

/-- Settles O40: as PACK.D10SI, with TBS behind the shared fields. -/
theorem packD10RALayoutOfR148 : Obligations.PackD10RALayoutOfR148 := by
  intro d s hlegal
  obtain ⟨p, hexec, hsize, hlines⟩ := exec_packs_layoutAt (i := .packD10RA d) rfl hlegal s
  refine ⟨p, hexec, (Option.some.inj hsize).symm, ?_⟩
  simpa [layoutD10RA, LayoutAt, natD10RA] using hlines

/-- Settles O42: the lines of PACK.D10C without that of DAI. -/
theorem packD10TCLayoutOfR150 : Obligations.PackD10TCLayoutOfR150 := by
  intro d s hlegal
  obtain ⟨p, hexec, hsize, hlines⟩ := exec_packs_layoutAt (i := .packD10TC d) rfl hlegal s
  refine ⟨p, hexec, (Option.some.inj hsize).symm, ?_⟩
  simpa [layoutD10TC, LayoutAt, natD10TC, Nat.add_comm 1] using hlines

/-- Settles O45: every width is fixed, so every position is a number. -/
theorem packRarLayoutOfR171 : Obligations.PackRarLayoutOfR171 := by
  intro d s hlegal
  obtain ⟨p, hexec, hsize, hlines⟩ := exec_packs_layoutAt (i := .packRar d) rfl hlegal s
  refine ⟨p, hexec, (Option.some.inj hsize).symm, ?_⟩
  simpa [layoutRar, LayoutAt] using hlines

end Sys2Proof.Machine
end

section
/-! Sequences of accumulator commands (40_accumulator.md R85, R86), what a packing command has in common with
one (41_packer_common.md R116), and what its result is made of (R112, R115). -/

namespace Sys2Proof.Machine

/-! ### One command of a sequence -/

theorem emission_command_effect (e : Emission) : e.command.effect = extendAcc e.payload := by
  cases e <;> rfl

/-- A sequence goes on behind a command whose checks pass. -/
theorem runCommands_of_checks_pass {i : Instr} {is : List Instr} {s : State} (hf : s.fault = false)
    (hpass : firstFailure (i.checks s) = none) :
    runCommands (i :: is) s = runCommands is (i.effect s) :=
  runCommands_cons hf (exec_of_checks_pass ((firstFailure_eq_none _).mp hpass))

/-- A command of a sequence that ends without fault has passed its checks: after a fault no command would
run (60_exceptions.md R184). -/
theorem checks_pass_of_runCommands {i : Instr} {is : List Instr} {s t : State} (hf : s.fault = false)
    (hrun : runCommands (i :: is) s = .next t) (ht : t.fault = false) :
    firstFailure (i.checks s) = none := by
  rcases exec_takeFault_or_effect i s with ⟨c, _, hexec⟩ | ⟨hpass, _⟩
  · rw [runCommands_cons hf hexec] at hrun
    cases is with
    | nil => cases hrun; cases ht
    | cons j is => rw [runCommands_of_fault j is rfl] at hrun; cases hrun
  · exact hpass

theorem appendChecks_pass_iff {v w : Nat} {s : State} :
    firstFailure ((Instr.accAppend v w).checks s) = none ↔
      s.accFinal = false ∧ w ≤ 32 ∧ v < 2 ^ w ∧ s.acc.length + w ≤ 128 := by
  simp [Instr.checks, appendChecks, Config.appendMaxWidth, Config.maxPayload]

theorem zerosChecks_pass_iff {n : Nat} {s : State} :
    firstFailure ((Instr.accZeros n).checks s) = none ↔
      s.accFinal = false ∧ s.acc.length + n ≤ 128 := by
  simp [Instr.checks, zerosChecks, Config.maxPayload]

theorem finalizeChecks_pass_iff {s : State} :
    firstFailure (Instr.accFinalize.checks s) = none ↔ s.accFinal = false := by
  simp [Instr.checks, finalizeChecks]

/-! ### A layout emitted by accumulator commands -/

/-- What ACC.APPEND asks of an emitted value besides room (40_accumulator.md R81). -/
def Emission.Appendable : Emission → Prop
  | .emit v w => v < 2 ^ w ∧ w ≤ 32
  | .emitz _ => True

theorem emission_command_pass_iff {e : Emission} {s : State} :
    firstFailure (e.command.checks s) = none ↔
      s.accFinal = false ∧ e.Appendable ∧ s.acc.length + e.payload.length ≤ 128 := by
  cases e with
  | emit v w => simp [Emission.command, Emission.Appendable, appendChecks_pass_iff]; tauto
  | emitz n => simp [Emission.command, Emission.Appendable, zerosChecks_pass_iff]

theorem extendAcc_extendAcc (a b : Payload) (s : State) :
    extendAcc b (extendAcc a s) = extendAcc (a ++ b) s := by
  simp [extendAcc]

theorem extendAcc_nil (s : State) : extendAcc [] s = s := by simp [extendAcc]

/-- With an open accumulator, appendable values and room for all of it, the commands of a layout extend the
accumulator by the bits it emits (40_accumulator.md R85). -/
theorem runCommands_map_command {l : List Emission} {s : State} (is : List Instr) (hf : s.fault = false)
    (hopen : s.accFinal = false) (hl : ∀ e ∈ l, e.Appendable)
    (hroom : s.acc.length + (emitAll l).length ≤ 128) :
    runCommands (l.map Emission.command ++ is) s = runCommands is (extendAcc (emitAll l) s) := by
  induction l generalizing s with
  | nil => rw [emitAll_nil, extendAcc_nil]; rfl
  | cons e l ih =>
    obtain ⟨he, hrest⟩ := List.forall_mem_cons.mp hl
    rw [emitAll_cons, List.length_append] at hroom
    have hpass : firstFailure (e.command.checks s) = none :=
      emission_command_pass_iff.mpr ⟨hopen, he, by omega⟩
    rw [List.map_cons, List.cons_append, runCommands_of_checks_pass hf hpass, emission_command_effect,
      ih (s := extendAcc e.payload s) hf hopen hrest (by simpa [Nat.add_assoc] using hroom),
      extendAcc_extendAcc, emitAll_cons]

/-- Conversely, where such a sequence and its finalize end without fault, OUT is the accumulator extended
by the layout's bits. -/
theorem eq_finalizeAcc_of_runCommands {l : List Emission} {s t : State} (hf : s.fault = false)
    (hrun : runCommands (l.map Emission.command ++ [.accFinalize]) s = .next t) (ht : t.fault = false) :
    t = finalizeAcc (extendAcc (emitAll l) s) := by
  induction l generalizing s with
  | nil =>
    rw [List.map_nil, List.nil_append] at hrun
    rw [runCommands_of_checks_pass hf (checks_pass_of_runCommands hf hrun ht)] at hrun
    cases hrun
    rw [emitAll_nil, extendAcc_nil]
    rfl
  | cons e l ih =>
    rw [List.map_cons, List.cons_append] at hrun
    rw [runCommands_of_checks_pass hf (checks_pass_of_runCommands hf hrun ht),
      emission_command_effect] at hrun
    rw [ih (s := extendAcc e.payload s) hf hrun, extendAcc_extendAcc, emitAll_cons]

/-- Settles O26: the value has passed ACC.APPEND's check, and its bits stand behind the L bits the
accumulator held, whatever is appended behind them. -/
theorem fieldExtractionOfR86 : Obligations.FieldExtractionOfR86 := by
  intro s t v w more hf hrun ht
  obtain ⟨_, _, hv, _⟩ := appendChecks_pass_iff.mp (checks_pass_of_runCommands hf hrun ht)
  rw [eq_finalizeAcc_of_runCommands (l := .emit v w :: more) hf hrun ht]
  refine ⟨rfl, ?_⟩
  have hfield := slice_append_middle s.acc (bits v w) (emitAll more)
  rw [bits_length] at hfield
  rw [finalizeAcc_out, extendAcc_acc, emitAll_cons, emit_payload, ← List.append_assoc, hfield, num_bits hv]

/-! ### The sequence law -/

/-- ACC.CLEAR, a layout's commands and what follows them, from any state without fault. -/
theorem runCommands_clear_map_command {l : List Emission} {s : State} (is : List Instr)
    (hf : s.fault = false) (hl : ∀ e ∈ l, e.Appendable) (hroom : (emitAll l).length ≤ 128) :
    runCommands (.accClear :: l.map Emission.command ++ is) s =
      runCommands is (extendAcc (emitAll l) (clearAcc s)) := by
  have hclear : runCommands (.accClear :: (l.map Emission.command ++ is)) s =
      runCommands (l.map Emission.command ++ is) (clearAcc s) :=
    runCommands_of_checks_pass (i := .accClear) hf rfl
  rw [List.cons_append, hclear]
  exact runCommands_map_command is hf rfl hl (by simpa using hroom)

/-- With the finalize behind them they leave the state of a commit (41_packer_common.md R116). -/
theorem runCommands_clear_map_command_finalize {l : List Emission} {s : State} (hf : s.fault = false)
    (hl : ∀ e ∈ l, e.Appendable) (hroom : (emitAll l).length ≤ 128) :
    runCommands (.accClear :: l.map Emission.command ++ [.accFinalize]) s =
      .next (packed (emitAll l) s) := by
  rw [runCommands_clear_map_command _ hf hl hroom]
  exact runCommands_of_checks_pass (i := .accFinalize) hf (finalizeChecks_pass_iff.mpr rfl)

/-- The fields of R85, (value, width) pairs, as the lines of a layout. -/
def fieldLines (fields : List (Nat × Nat)) : List Emission := fields.map fun f => .emit f.1 f.2

theorem fieldLines_map_command (fields : List (Nat × Nat)) :
    (fieldLines fields).map Emission.command = fields.map fun f => .accAppend f.1 f.2 := by
  simp [fieldLines, Emission.command]

theorem emitAll_fieldLines (fields : List (Nat × Nat)) :
    emitAll (fieldLines fields) = fields.flatMap fun f => bits f.1 f.2 := by
  simp [fieldLines, emitAll, List.flatMap_map]

theorem emitAll_fieldLines_length (fields : List (Nat × Nat)) :
    (emitAll (fieldLines fields)).length = (fields.map fun f => f.2).sum := by
  simp [emitAll_fieldLines, List.length_flatMap]

/-- An ACC.APPEND that breaks a condition of R81 on its operands or its room faults. -/
theorem exec_accAppend_faults {v w : Nat} {s : State}
    (hbad : ¬ (v < 2 ^ w ∧ w ≤ 32 ∧ s.acc.length + w ≤ 128)) :
    ∃ c : Check, exec (.accAppend v w) s = .next (takeFault c.cause 0x02 c.field s) := by
  rcases exec_takeFault_or_effect (.accAppend v w) s with ⟨c, _, hexec⟩ | ⟨hpass, _⟩
  · exact ⟨c, hexec⟩
  · obtain ⟨_, hwidth, hvalue, hfit⟩ := appendChecks_pass_iff.mp hpass
    exact absurd ⟨hvalue, hwidth, hfit⟩ hbad

/-- The first field that breaks a condition faults, with the bits of those before it in ACC, and what follows
finds that fault. -/
theorem runCommands_first_bad_field {s : State} {fields : List (Nat × Nat)} {bad : Nat × Nat}
    (hf : s.fault = false) (hl : ∀ e ∈ fieldLines fields, e.Appendable)
    (hroom : (emitAll (fieldLines fields)).length ≤ 128)
    (hbad : ¬ (bad.1 < 2 ^ bad.2 ∧ bad.2 ≤ 32 ∧ (fields.map fun f => f.2).sum + bad.2 ≤ 128)) :
    ∃ t : State, t.fault = true ∧ t.faultOpcode = 0x02 ∧ t.outValid = false ∧
      t.acc = emitAll (fieldLines fields) ∧
      ∀ is, runCommands (.accClear :: (fields.map (fun f => .accAppend f.1 f.2) ++
        .accAppend bad.1 bad.2 :: is)) s = runCommands is t := by
  obtain ⟨c, hexec⟩ := exec_accAppend_faults (v := bad.1) (w := bad.2)
    (s := extendAcc (emitAll (fieldLines fields)) (clearAcc s))
    (by simpa [emitAll_fieldLines_length] using hbad)
  refine ⟨takeFault c.cause 0x02 c.field (extendAcc (emitAll (fieldLines fields)) (clearAcc s)),
    rfl, rfl, rfl, rfl, fun is => ?_⟩
  rw [← fieldLines_map_command, ← List.cons_append, runCommands_clear_map_command _ hf hl hroom]
  exact runCommands_cons hf hexec

/-- Settles O25: the good fields leave an open accumulator with their bits; the field that breaks a
condition fails a check of its APPEND, and no command runs after that fault. -/
theorem sequenceLawOfR85 : Obligations.SequenceLawOfR85 := by
  intro s fields hf hgood hsum
  have hl : ∀ e ∈ fieldLines fields, e.Appendable := List.forall_mem_map.mpr hgood
  have hroom : (emitAll (fieldLines fields)).length ≤ 128 := by rwa [emitAll_fieldLines_length]
  rw [← emitAll_fieldLines]
  refine ⟨?_, fun bad more hbad => ?_⟩
  · rw [← fieldLines_map_command]
    exact runCommands_clear_map_command_finalize hf hl hroom
  · obtain ⟨t, hfault, hopcode, hvalid, hacc, hrun⟩ := runCommands_first_bad_field hf hl hroom hbad
    refine ⟨⟨t, ?_, hfault, hopcode, hvalid, hacc⟩, ?_⟩
    · rw [List.map_append]
      exact hrun []
    · rw [List.map_append, List.map_cons, List.cons_append, List.append_assoc, List.cons_append, hrun]
      cases more <;> exact runCommands_of_fault _ _ hfault

/-! ### What a packing command's result is made of -/

theorem packLayout_of_payloadSize {i : Instr} {n : Nat} (h : i.payloadSize = some n) :
    ∃ l, i.packLayout = some l := by
  cases i <;> cases h <;> exact ⟨_, rfl⟩

/-- Settles O47: without fault the operands were legal, and the payload is a legal layout's. -/
theorem packedLengthOfR112 : Obligations.PackedLengthOfR112 := by
  intro i n s t hn _ hexec hf
  obtain ⟨l, hl⟩ := packLayout_of_payloadSize hn
  by_cases hlegal : i.PackLegal
  · cases hexec.symm.trans ((packersCompleteExactlyOnLegalOperands i l hl).1 hlegal s)
    exact Option.some.inj ((payloadSize_eq_layout_length hl hlegal).symm.trans hn)
  · obtain ⟨cause, field, hfault⟩ := (packersCompleteExactlyOnLegalOperands i l hl).2 hlegal s
    cases hexec.symm.trans hfault
    cases hf

/-- The checks of a packing command look at its operands alone (41_packer_common.md R115). -/
theorem checks_of_packLayout {i : Instr} {l : List Emission} (hl : i.packLayout = some l) (s t : State) :
    i.checks s = i.checks t := by
  cases i <;> cases hl <;> rfl

/-- Settles O48: the first failing check, or that there is none, is the same from every state. -/
theorem packersIgnoreTheState : Obligations.PackersIgnoreTheState := by
  intro i l hl
  cases hc : firstFailure (i.checks State.reset) with
  | some c =>
    refine .inr ⟨c.cause.code, i.opcode, BitVec.ofNat 8 c.field, fun s => ?_⟩
    rw [checks_of_packLayout hl State.reset s] at hc
    rw [exec_eq_checks_effect, runChecked_of_some hc]
    rfl
  | none =>
    refine .inl ⟨emitAll l, ?_⟩
    exact (packersCompleteExactlyOnLegalOperands i l hl).1 ((checks_pass_iff_packLegal hl _).mp hc)

theorem Emission.Fits.appendable {e : Emission} (h : e.Fits) : e.Appendable := by
  cases e with
  | emit v w =>
    obtain ⟨hv, hw⟩ := h
    exact ⟨hv, hw.trans (by decide)⟩
  | emitz n => trivial

/-- Settles O49: the lines of a legal layout fit, and so they can be appended; together they are no more
than M bits. -/
theorem packersEqualAccumulatorSequences : Obligations.PackersEqualAccumulatorSequences := by
  intro i l s hl hlegal hf
  have hfits := packLayout_fits hl hlegal
  refine ⟨⟨packed (emitAll l) s, ?_, hf, ?_⟩, fun v w hmem => hfits _ hmem⟩
  · exact (packersCompleteExactlyOnLegalOperands i l hl).1 hlegal s
  · exact runCommands_clear_map_command_finalize hf (fun e he => (hfits e he).appendable)
      (payloadSize_le_maxPayload (payloadSize_eq_layout_length hl hlegal) hlegal)

end Sys2Proof.Machine
end
